-- ==== Sys2Proof/Word.lean ====
section
/-!
DEFINITION. The two data types everything else is written in: a 32-bit register or bus word
(00_scope.md R13) and a bit vector whose length is a run-time fact (00_scope.md R8).
-/

namespace Sys2Proof

/-- A register or bus word: 32 bits, bit 31 the most significant (R13). -/
abbrev Word := BitVec 32

/-- `BV n` of R8: an ordered sequence of elements each 0 or 1; its length is `List.length`.
Element 0 is the head of the list and the most significant (R9, R10). -/
abbrev Bits := List Bool

/-- The number of a vector register, `v0` to `v7` (R21, `NV = 8`). -/
abbrev VIdx := Fin 8

end Sys2Proof
end

