-- ==== Sys2Proof/Syntax.lean ====
section
/-!
DEFINITION. The commands: one constructor for each row of opcode_table.json, in the table's order
(30_encoding.md R83, R84, R86). Operands stand in the order of the assembly syntax (R90), the
destination first. A field a command does not use is no operand of it: "A field an opcode does not use
is ignored" (R84).
-/

namespace Sys2Proof

/-- A command. -/
inductive Instr where
  /-- `nop` (R160). -/
  | nop
  /-- `permute vD, vS, ip` (R101, IMM = 0). -/
  | permuteIp (rd rs1 : VIdx)
  /-- `permute vD, vS, ipinv` (R101, IMM = 1). -/
  | permuteIpinv (rd rs1 : VIdx)
  /-- `permute vD, vS, ep` (R101, IMM = 2). -/
  | permuteEp (rd rs1 : VIdx)
  /-- `permute vD, vS, p4` (R101, IMM = 3). -/
  | permuteP4 (rd rs1 : VIdx)
  /-- `permute vD, vS, p10` (R101, IMM = 4). -/
  | permuteP10 (rd rs1 : VIdx)
  /-- `permute vD, vS, p8` (R101, IMM = 5). -/
  | permuteP8 (rd rs1 : VIdx)
  /-- `permute vD, vS, tbl` (R101, IMM = 7): the user table. -/
  | permuteTbl (rd rs1 : VIdx)
  /-- `xor vD, vA, vB` (R107). -/
  | xor (rd rs1 rs2 : VIdx)
  /-- `split vD, vD2, vS` (R103). -/
  | split (rd rd2 rs1 : VIdx)
  /-- `rotl vD, vS, n` (R105); `n` is the unsigned 4-bit IMM (R86). -/
  | rotl (rd rs1 : VIdx) (n : Fin 16)
  /-- `concat vD, vA, vB` (R108). -/
  | concat (rd rs1 rs2 : VIdx)
  /-- `sbox vD, vS, s0` (R121, IMM = 0). -/
  | sboxS0 (rd rs1 : VIdx)
  /-- `sbox vD, vS, s1` (R121, IMM = 1). -/
  | sboxS1 (rd rs1 : VIdx)
  /-- `keygen vD, vD2, vK` (R131). -/
  | keygen (rd rd2 rs1 : VIdx)
  /-- `round vD, vR, vK` (R141). -/
  | round (rd rs1 rs2 : VIdx)
  /-- `encrypt vD, vP, vK` (R153). -/
  | encrypt (rd rs1 rs2 : VIdx)
  /-- `decrypt vD, vC, vK` (R154). -/
  | decrypt (rd rs1 rs2 : VIdx)
  deriving DecidableEq, Repr

end Sys2Proof
end

