-- ==== Sys2Proof/WellFormed.lean ====
section
/-!
DEFINITION. Which commands a word can encode (30_encoding.md R89). The bounds on register numbers (R85)
and on IMM (R86) hold by the types of `Instr`; what is left to check is that the two destinations of
`split` and `keygen` differ (R87).
-/

namespace Sys2Proof

/-- "For `split` and `keygen`, `RD` must differ from `RD2`" (R87); every other command is well formed. -/
def Instr.wf : Instr → Bool
  | .nop => true
  | .permuteIp _ _ => true
  | .permuteIpinv _ _ => true
  | .permuteEp _ _ => true
  | .permuteP4 _ _ => true
  | .permuteP10 _ _ => true
  | .permuteP8 _ _ => true
  | .permuteTbl _ _ => true
  | .xor _ _ _ => true
  | .split rd rd2 _ => decide (rd ≠ rd2)
  | .rotl _ _ _ => true
  | .concat _ _ _ => true
  | .sboxS0 _ _ => true
  | .sboxS1 _ _ => true
  | .keygen rd rd2 _ => decide (rd ≠ rd2)
  | .round _ _ _ => true
  | .encrypt _ _ _ => true
  | .decrypt _ _ _ => true

end Sys2Proof
end

