-- ==== Sys2Proof/Decode.lean ====
section
/-!
DEFINITION. The decoder of a command word, total and rejecting by name (30_encoding.md R80 to R89); after
it the encoder (R81, R92) and the opcode table as mask and match rows (opcode_table.json).
-/

namespace Sys2Proof

/-- Why a word is `IllegalCommand`: the five cases of R88 and R176. The core reports the one code for
all of them; which name a word with several gets is the model's own (log entry 8). -/
inductive IllegalReason where
  /-- `RSV` is not zero (R82). -/
  | reservedBits
  /-- `OP` is 0xB to 0xF (R83). -/
  | reservedOpcode
  /-- A used register field holds 8 to 15 (R85). -/
  | registerField
  /-- A reserved IMM value of `permute` or `sbox` (R86). -/
  | reservedImmediate
  /-- `RD = RD2` for `split` or `keygen` (R87). -/
  | equalDestinations
  deriving DecidableEq, Repr

/-! ### The fields of the word (R81) -/

/-- `OP`, bits [3:0]. -/
def opField (w : Word) : BitVec 4 := w.extractLsb' 0 4
/-- `RD`, bits [7:4]. -/
def rdField (w : Word) : BitVec 4 := w.extractLsb' 4 4
/-- `RS1`, bits [11:8]. -/
def rs1Field (w : Word) : BitVec 4 := w.extractLsb' 8 4
/-- `RS2`, bits [15:12]. -/
def rs2Field (w : Word) : BitVec 4 := w.extractLsb' 12 4
/-- `RD2`, bits [19:16]. -/
def rd2Field (w : Word) : BitVec 4 := w.extractLsb' 16 4
/-- `IMM`, bits [23:20]. -/
def immField (w : Word) : BitVec 4 := w.extractLsb' 20 4
/-- `RSV`, bits [31:24]. -/
def rsvField (w : Word) : BitVec 8 := w.extractLsb' 24 8

/-- A used register field: 0 to 7, else `IllegalCommand` (R85). -/
def regOf (f : BitVec 4) : Except IllegalReason VIdx :=
  if h : f.toNat < 8 then .ok ⟨f.toNat, h⟩ else .error .registerField

/-- The commands that use `RD` and `RS1`. -/
def decodeUnary (mk : VIdx → VIdx → Instr) (w : Word) : Except IllegalReason Instr := do
  let rd ← regOf (rdField w)
  let rs1 ← regOf (rs1Field w)
  return mk rd rs1

/-- The commands that use `RD`, `RS1` and `RS2`. -/
def decodeBinary (mk : VIdx → VIdx → VIdx → Instr) (w : Word) : Except IllegalReason Instr := do
  let rd ← regOf (rdField w)
  let rs1 ← regOf (rs1Field w)
  let rs2 ← regOf (rs2Field w)
  return mk rd rs1 rs2

/-- The commands that use `RD`, `RD2` and `RS1`, whose destinations must differ (R87). -/
def decodePair (mk : VIdx → VIdx → VIdx → Instr) (w : Word) : Except IllegalReason Instr := do
  let rd ← regOf (rdField w)
  let rd2 ← regOf (rd2Field w)
  let rs1 ← regOf (rs1Field w)
  if rd = rd2 then .error .equalDestinations else return mk rd rd2 rs1

/-- The table selection of `permute` (R86): IMM 6 and 8 to 15 are reserved. -/
def decodePermute (w : Word) : Except IllegalReason Instr :=
  match (immField w).toNat with
  | 0 => decodeUnary .permuteIp w
  | 1 => decodeUnary .permuteIpinv w
  | 2 => decodeUnary .permuteEp w
  | 3 => decodeUnary .permuteP4 w
  | 4 => decodeUnary .permuteP10 w
  | 5 => decodeUnary .permuteP8 w
  | 7 => decodeUnary .permuteTbl w
  | _ => .error .reservedImmediate

/-- The box selection of `sbox` (R86): IMM 2 to 15 are reserved. -/
def decodeSbox (w : Word) : Except IllegalReason Instr :=
  match (immField w).toNat with
  | 0 => decodeUnary .sboxS0 w
  | 1 => decodeUnary .sboxS1 w
  | _ => .error .reservedImmediate

/-- `rotl`: every IMM is an amount (R86). -/
def decodeRotl (w : Word) : Except IllegalReason Instr :=
  decodeUnary (fun rd rs1 => .rotl rd rs1 ⟨(immField w).toNat, (immField w).isLt⟩) w

/-- "Every 32-bit word decodes to exactly one of two outcomes" (R89): a command, or `IllegalCommand`,
here with the reason's name. -/
def decode (w : Word) : Except IllegalReason Instr :=
  if rsvField w ≠ 0 then .error .reservedBits else
  match (opField w).toNat with
  | 0 => .ok .nop
  | 1 => decodePermute w
  | 2 => decodeBinary .xor w
  | 3 => decodePair .split w
  | 4 => decodeRotl w
  | 5 => decodeBinary .concat w
  | 6 => decodeSbox w
  | 7 => decodePair .keygen w
  | 8 => decodeBinary .round w
  | 9 => decodeBinary .encrypt w
  | 10 => decodeBinary .decrypt w
  | _ => .error .reservedOpcode

/-! ### The encoder (R81, R90, R92) -/

/-- The six nibbles of a command word; `RSV` is always 0. -/
structure CmdFields where
  op  : BitVec 4
  rd  : BitVec 4 := 0
  rs1 : BitVec 4 := 0
  rs2 : BitVec 4 := 0
  rd2 : BitVec 4 := 0
  imm : BitVec 4 := 0
  deriving DecidableEq, Repr

/-- A register number in its field. -/
def regField (i : VIdx) : BitVec 4 := BitVec.ofNat 4 i.val

/-- The fields of each command, R90's `word` column: "The assembler writes 0 in every field the command
does not use". -/
def Instr.fields : Instr → CmdFields
  | .nop => { op := 0x0 }
  | .permuteIp rd rs1 => { op := 0x1, rd := regField rd, rs1 := regField rs1, imm := 0 }
  | .permuteIpinv rd rs1 => { op := 0x1, rd := regField rd, rs1 := regField rs1, imm := 1 }
  | .permuteEp rd rs1 => { op := 0x1, rd := regField rd, rs1 := regField rs1, imm := 2 }
  | .permuteP4 rd rs1 => { op := 0x1, rd := regField rd, rs1 := regField rs1, imm := 3 }
  | .permuteP10 rd rs1 => { op := 0x1, rd := regField rd, rs1 := regField rs1, imm := 4 }
  | .permuteP8 rd rs1 => { op := 0x1, rd := regField rd, rs1 := regField rs1, imm := 5 }
  | .permuteTbl rd rs1 => { op := 0x1, rd := regField rd, rs1 := regField rs1, imm := 7 }
  | .xor rd rs1 rs2 => { op := 0x2, rd := regField rd, rs1 := regField rs1, rs2 := regField rs2 }
  | .split rd rd2 rs1 => { op := 0x3, rd := regField rd, rs1 := regField rs1, rd2 := regField rd2 }
  | .rotl rd rs1 n =>
      { op := 0x4, rd := regField rd, rs1 := regField rs1, imm := BitVec.ofNat 4 n.val }
  | .concat rd rs1 rs2 => { op := 0x5, rd := regField rd, rs1 := regField rs1, rs2 := regField rs2 }
  | .sboxS0 rd rs1 => { op := 0x6, rd := regField rd, rs1 := regField rs1, imm := 0 }
  | .sboxS1 rd rs1 => { op := 0x6, rd := regField rd, rs1 := regField rs1, imm := 1 }
  | .keygen rd rd2 rs1 => { op := 0x7, rd := regField rd, rs1 := regField rs1, rd2 := regField rd2 }
  | .round rd rs1 rs2 => { op := 0x8, rd := regField rd, rs1 := regField rs1, rs2 := regField rs2 }
  | .encrypt rd rs1 rs2 => { op := 0x9, rd := regField rd, rs1 := regField rs1, rs2 := regField rs2 }
  | .decrypt rd rs1 rs2 => { op := 0xA, rd := regField rd, rs1 := regField rs1, rs2 := regField rs2 }

/-- `word = IMM << 20 | RD2 << 16 | RS2 << 12 | RS1 << 8 | RD << 4 | OP`, with `RSV = 0` (R92). -/
def CmdFields.word (f : CmdFields) : Word :=
  f.imm.setWidth 32 <<< 20 ||| f.rd2.setWidth 32 <<< 16 ||| f.rs2.setWidth 32 <<< 12 |||
  f.rs1.setWidth 32 <<< 8 ||| f.rd.setWidth 32 <<< 4 ||| f.op.setWidth 32

/-- The word of a command. -/
def encode (i : Instr) : Word := i.fields.word

/-! ### The opcode table -/

/-- One row of opcode_table.json: a word belongs to it when `word &&& mask = pattern`. -/
structure OpcodeRow where
  mnemonic : String
  pattern  : Word
  mask     : Word
  deriving DecidableEq, Repr

/-- The row of each command. -/
def Instr.row : Instr → OpcodeRow
  | .nop => ⟨"nop", 0x00000000, 0xFF00000F⟩
  | .permuteIp _ _ => ⟨"permute.ip", 0x00000001, 0xFFF0000F⟩
  | .permuteIpinv _ _ => ⟨"permute.ipinv", 0x00100001, 0xFFF0000F⟩
  | .permuteEp _ _ => ⟨"permute.ep", 0x00200001, 0xFFF0000F⟩
  | .permuteP4 _ _ => ⟨"permute.p4", 0x00300001, 0xFFF0000F⟩
  | .permuteP10 _ _ => ⟨"permute.p10", 0x00400001, 0xFFF0000F⟩
  | .permuteP8 _ _ => ⟨"permute.p8", 0x00500001, 0xFFF0000F⟩
  | .permuteTbl _ _ => ⟨"permute.tbl", 0x00700001, 0xFFF0000F⟩
  | .xor _ _ _ => ⟨"xor", 0x00000002, 0xFF00000F⟩
  | .split _ _ _ => ⟨"split", 0x00000003, 0xFF00000F⟩
  | .rotl _ _ _ => ⟨"rotl", 0x00000004, 0xFF00000F⟩
  | .concat _ _ _ => ⟨"concat", 0x00000005, 0xFF00000F⟩
  | .sboxS0 _ _ => ⟨"sbox.s0", 0x00000006, 0xFFF0000F⟩
  | .sboxS1 _ _ => ⟨"sbox.s1", 0x00100006, 0xFFF0000F⟩
  | .keygen _ _ _ => ⟨"keygen", 0x00000007, 0xFF00000F⟩
  | .round _ _ _ => ⟨"round", 0x00000008, 0xFF00000F⟩
  | .encrypt _ _ _ => ⟨"encrypt", 0x00000009, 0xFF00000F⟩
  | .decrypt _ _ _ => ⟨"decrypt", 0x0000000A, 0xFF00000F⟩

/-! ### The host's reading of a table word -/

/-- The command the decoder reads from an instruction whose bits are `w`. A command is one 32-bit word
(R80), so bit 0 of the table is bit 0 of the word; an instruction longer than that does not exist. -/
def decodeTableWord (nbits w : Nat) : Option Instr :=
  if nbits ≤ 32 then (decode (BitVec.ofNat 32 (w % 2 ^ nbits))).toOption else none

end Sys2Proof
end

