-- ==== Sys2Proof/Config.lean ====
section
/-!
DEFINITION. What a given core fixes and no access changes (10_state.md R32 to R37): the eight tables,
the key-schedule shifts and the order of the halves before IP⁻¹.
`TABLES` and `FINAL_HALF_ORDER` are arguments of the model, as R34 and R37 ask: a state carries the
configuration of its core, and `Config.default` is the spec's value.
The spec leaves no value of the core free (93_implementation_defined.md: "No behaviour of the core is
`any value` or `stuck`"), so there is no opaque constant here.
-/

namespace Sys2Proof

/-- A permutation table: 1-based source positions, one for each output element (R9, R100). -/
abbrev PermTable := List Nat

/-- A substitution box: a 4 by 4 grid of 2-bit values (R33), by type. -/
abbrev SBox := Vector (Vector (Fin 4) 4) 4

/-- `TABLES` (R32, R33): six permutation tables and two substitution boxes. -/
structure Tables where
  ip    : PermTable
  ipinv : PermTable
  ep    : PermTable
  p4    : PermTable
  p10   : PermTable
  p8    : PermTable
  s0    : SBox
  s1    : SBox
  deriving DecidableEq, Repr

/-- `FINAL_HALF_ORDER` (R37): which concatenation the final permutation is applied to. -/
inductive HalfOrder where
  /-- `R2 ++ L2`, the spec's value. -/
  | r2l2
  /-- `L2 ++ R2`, the literal reading of the source. -/
  | l2r2
  deriving DecidableEq, Repr

/-- The configuration of one core: "They are constants of a given core. No access changes them" (R20). -/
structure Config where
  tables : Tables
  finalHalfOrder : HalfOrder
  deriving DecidableEq, Repr

/-- `LS = [1, 2]` (R36): fixed, not a configuration choice. -/
def ls : Vector Nat 2 := #v[1, 2]

/-- A table with `m` entries, each in [1, n]: the shape R33 gives a table applied to vectors of
length `n`. -/
abbrev PermTable.Shape (t : PermTable) (m n : Nat) : Prop :=
  t.length = m ∧ ∀ p ∈ t, 1 ≤ p ∧ p ≤ n

/-- `t` undoes `u` on vectors of length `n`: position `i` of the composition reads position `i`. -/
abbrev PermTable.Undoes (t u : PermTable) (n : Nat) : Prop :=
  ∀ i ∈ List.range n, u.getD (t.getD i 0 - 1) 0 = i + 1

/-- The well-formedness of a `TABLES` value (R33): every shape of its table, and IP⁻¹ the inverse of IP
in both orders. The S-box row of R33's table holds by the type `SBox`. -/
abbrev Tables.WellFormed (t : Tables) : Prop :=
  t.ip.Shape 8 8 ∧ t.ipinv.Shape 8 8 ∧ t.ep.Shape 8 4 ∧ t.p4.Shape 4 4 ∧
  t.p10.Shape 10 10 ∧ t.p8.Shape 8 10 ∧ t.ipinv.Undoes t.ip 8 ∧ t.ip.Undoes t.ipinv 8

/-- A configuration that meets R33; R33: "A model should refuse a configuration that does not meet
this table" (`State.resetWith?` refuses it). -/
abbrev Config.WellFormed (c : Config) : Prop := c.tables.WellFormed

/-- S0 of R34. -/
def standardS0 : SBox :=
  #v[#v[1, 0, 3, 2], #v[3, 2, 1, 0], #v[0, 2, 1, 3], #v[3, 1, 3, 2]]

/-- S1 of R34. -/
def standardS1 : SBox :=
  #v[#v[0, 1, 2, 3], #v[2, 0, 1, 3], #v[3, 0, 1, 0], #v[2, 1, 0, 3]]

/-- The spec's value of `TABLES` (R34): the standard S-DES set. -/
def Tables.standard : Tables where
  ip    := [2, 6, 3, 1, 4, 8, 5, 7]
  ipinv := [4, 1, 3, 5, 7, 2, 8, 6]
  ep    := [4, 1, 2, 3, 2, 3, 4, 1]
  p4    := [2, 4, 3, 1]
  p10   := [3, 5, 2, 7, 4, 10, 1, 9, 8, 6]
  p8    := [6, 3, 7, 4, 8, 5, 10, 9]
  s0    := standardS0
  s1    := standardS1

/-- The spec's values: `TABLES` of R34 and `FINAL_HALF_ORDER = R2_L2` (R37). -/
def Config.default : Config := ⟨Tables.standard, .r2l2⟩

end Sys2Proof
end

