-- ==== Sys2Proof/Machine/State.lean ====
section
/-!
DEFINITION. The state of one core (10_state.md R20 to R31, R39), the error names (R27, R171), the host's
side of the bus (20_memory.md R68), and the state after reset.
The core has no program counter and no memory of its own (R24, R50); what it executes next is the next
bus event the host presents.
-/

namespace Sys2Proof.Machine

/-- The errors of R27 and R171; `Error.code` (Flags.lean) gives each its number. Raising one is no stop
of the machine: the command fails, writes no destination and is recorded in STATUS (R170, R177). -/
inductive Error where
  /-- A permutation table entry lies outside [1, input length] (R172). -/
  | indexOutOfRange
  /-- Paired operands have unequal lengths (R173). -/
  | lengthMismatch
  /-- The host's parse error (R74, R174); no command raises it. -/
  | invalidBitValue
  /-- An operand length the operation does not accept, or a result above 10 (R175). -/
  | shapeViolation
  /-- The command word is no valid encoding (R176). -/
  | illegalCommand
  deriving DecidableEq, Repr

/-- Why the machine stops with a fault: never. "The core has no exceptions in the processor sense"
(R170), and "No behaviour of the core is `any value` or `stuck`" (93_implementation_defined.md). No
constructor, so nobody raises one: safe. -/
inductive Fault where
  deriving DecidableEq, Repr

/-- Why an instruction is refused. -/
inductive Refusal where
  /-- Raised by `exec` alone, for an instruction that has no meaning yet (safe: the machine stops). No
  arm of this model raises it. -/
  | notModelled (mnemonic : String)
  deriving DecidableEq, Repr

/-- A vector register (R21): `LEN` 0 to 15, of which 11 to 15 are illegal, and `DATA[9:0]`. -/
structure VReg where
  len  : BitVec 4
  data : BitVec 10
  deriving DecidableEq, Repr

/-- The 12 implemented bits of `TBL1` (R30): the reserved ones read 0 and ignore writes, so they are no
state. -/
structure Tbl1 where
  tlen    : BitVec 4
  entry10 : BitVec 4
  entry9  : BitVec 4
  deriving DecidableEq, Repr

/-- A host access: the ports `bus_we`, `bus_addr` and `bus_wdata` of R68, with the size in bytes of
`MemRead(off, 4)` and `MemWrite(off, 4, w)` (R14). A size other than 4 is an access that a platform's
bus may be able to express (R55). -/
inductive Access where
  | read (off : BitVec 6) (size : Nat)
  | write (off : BitVec 6) (size : Nat) (w : Word)
  deriving DecidableEq, Repr

/-- What the outside world presents to the core, one at a time in bus order (R62). -/
inductive BusEvent where
  /-- A host access that runs to its completion (R61, R69). -/
  | access (a : Access)
  /-- `rst` = 1 (R190), with the access it abandons, if one was in progress. -/
  | reset (inProgress : Option Access)
  deriving DecidableEq, Repr

/-- A completed access, `bus_ack` = 1: `bus_err`, and `bus_rdata` where R68 calls it valid (for a read). -/
structure Reply where
  err   : Bool
  rdata : Option Word
  deriving DecidableEq, Repr

/-- The machine. `v` to `fault` are the architectural state of R20, "exactly the following"; `cfg` is the
core's configuration, which no access changes; `inputs` and `replies` are the host's side of the bus and
the model's own fields (log entry 2). -/
structure State where
  /-- `TABLES` and `FINAL_HALF_ORDER` (R32, R37). -/
  cfg     : Config
  /-- `V[0]` to `V[7]` (R21). -/
  v       : Vector VReg 8
  /-- `TBL0` (R29). -/
  tbl0    : Word
  /-- `TBL1` (R30). -/
  tbl1    : Tbl1
  /-- `CMDREG` (R28). -/
  cmdreg  : Word
  /-- `STATUS.ERR` (R25). -/
  err     : BitVec 4
  /-- `STATUS.FAULT` (R25). -/
  fault   : Bool
  /-- The bus events still to come, the next one first. -/
  inputs  : List BusEvent
  /-- The accesses completed so far, the first one first (R197: the values its reads return). -/
  replies : List Reply
  deriving DecidableEq, Repr

/-- The reset values of R39 for a core of configuration `c`: "No value is unspecified". -/
def State.resetOf (c : Config) : State where
  cfg     := c
  v       := Vector.replicate 8 ⟨0, 0⟩
  tbl0    := 0
  tbl1    := ⟨0, 0, 0⟩
  cmdreg  := 0
  err     := 0
  fault   := false
  inputs  := []
  replies := []

/-- The machine right after reset, with the spec's value of the configuration (R34, R37, R39). -/
def State.reset : State := State.resetOf Config.default

/-- A machine of a given configuration: "A model should refuse a configuration that does not meet this
table" (R33). -/
def State.resetWith? (c : Config) : Option State :=
  if c.WellFormed then some (State.resetOf c) else none

end Sys2Proof.Machine
end

