-- ==== Sys2Proof/Machine/Flags.lean ====
section
/-!
DEFINITION. The two status fields (10_state.md R25 to R27, R40): the number of each error, and the
STATUS word the host reads. The core has no other flag: "The core has no condition codes, predicates or
arithmetic flags" (R40).
-/

namespace Sys2Proof.Machine

/-- The status code of each error (R27). -/
def Error.code : Error → BitVec 4
  | .indexOutOfRange => 1
  | .lengthMismatch => 2
  | .invalidBitValue => 3
  | .shapeViolation => 4
  | .illegalCommand => 5

/-- The code of success, `OK` (R27). -/
def codeOk : BitVec 4 := 0

/-- The STATUS word (R25, R58): `zext_32(STATUS.FAULT << 8 | STATUS.ERR)`. -/
def statusWord (err : BitVec 4) (fault : Bool) : Word :=
  (BitVec.ofBool fault).setWidth 32 <<< 8 ||| err.setWidth 32

/-- The bit of a written STATUS word that clears FAULT (R25: "write 1 to clear"). -/
def clearsFault (w : Word) : Bool := w.getLsbD 8

end Sys2Proof.Machine
end

