-- ==== Sys2Proof/Machine/Ops.lean ====
section
/-!
DEFINITION. The named operations on the state: one update for each field, the value of a bit vector and
its packing into a register (00_scope.md R10, 10_state.md R22, R23), and the recording of a command's
outcome in STATUS (60_exceptions.md R177, R178, R180).
-/

namespace Sys2Proof.Machine

/-! ### One update for each field -/

/-- Replace `V[i]`. -/
def State.setVReg (s : State) (i : VIdx) (r : VReg) : State := { s with v := s.v.set i r }
/-- Replace `TBL0`. -/
def State.setTbl0 (s : State) (w : Word) : State := { s with tbl0 := w }
/-- Replace `TBL1`. -/
def State.setTbl1 (s : State) (t : Tbl1) : State := { s with tbl1 := t }
/-- Replace `CMDREG`. -/
def State.setCmdreg (s : State) (w : Word) : State := { s with cmdreg := w }
/-- Replace `STATUS.ERR`. -/
def State.setErr (s : State) (c : BitVec 4) : State := { s with err := c }
/-- Replace `STATUS.FAULT`. -/
def State.setFault (s : State) (b : Bool) : State := { s with fault := b }
/-- Replace the bus events still to come. -/
def State.setInputs (s : State) (es : List BusEvent) : State := { s with inputs := es }
/-- Record a completed access. -/
def State.pushReply (s : State) (r : Reply) : State := { s with replies := s.replies ++ [r] }

/-- `V[i]`. -/
def State.vreg (s : State) (i : VIdx) : VReg := s.v[i]

/-! ### Bit vectors and register fields -/

/-- `val(v)` (R10): the sum of `v[i] * 2^(n-1-i)`, element 0 the most significant. -/
def val : Bits → Nat
  | [] => 0
  | b :: bs => b.toNat * 2 ^ bs.length + val bs

/-- The bit vector of length `n` whose value is `k` modulo `2^n`: element `j` has weight `2^(n-1-j)`. -/
def bitsOf (n k : Nat) : Bits := (List.range n).map fun j => k.testBit (n - 1 - j)

/-- The register contents that hold a bit vector (R23): `LEN <- n; DATA <- zext_10(val(v))`. -/
def packBits (x : Bits) : VReg := ⟨BitVec.ofNat 4 x.length, BitVec.ofNat 10 (val x)⟩

/-- `V[i] <- v` (R23). -/
def State.setV (s : State) (i : VIdx) (x : Bits) : State := s.setVReg i (packBits x)

/-- Write every destination in order (R94 step 4: "RD, then RD2"). -/
def State.writeAll (s : State) : List (VIdx × Bits) → State
  | [] => s
  | (i, x) :: rest => (s.setV i x).writeAll rest

/-! ### Recording the outcome: the core's "trap entry", and the return beside it -/

/-- A command failed with `e` (R177): `STATUS.ERR <- c; STATUS.FAULT <- 1`, and nothing else changes. -/
def State.recordFailure (s : State) (e : Error) : State := (s.setErr e.code).setFault true

/-- A command succeeded (R178): `STATUS.ERR <- 0`, and `STATUS.FAULT` keeps its value. -/
def State.recordSuccess (s : State) : State := s.setErr codeOk

/-- The host clears FAULT (R25, R180); there is no return-from-trap. ERR is not writable. -/
def State.clearFault (s : State) : State := s.setFault false

/-- Step 4 of `Execute` (R94): on success write every destination and record OK; on an error write no
destination and record it. -/
def commit (s : State) (results : Except Error (List (VIdx × Bits))) :
    Host.Outcome State Fault Refusal :=
  match results with
  | .ok writes => .next (s.writeAll writes).recordSuccess
  | .error e => .next (s.recordFailure e)

end Sys2Proof.Machine
end

