-- ==== Sys2Proof/Machine/Operands.lean ====
section
/-!
DEFINITION. Every operand form (30_encoding.md R86: "Every register operand is one of the eight vector
registers, read with `vec` or written with `V[i] <- v`. There are no other operand forms"), and the user
permutation table (10_state.md R29 to R31).
-/

namespace Sys2Proof.Machine

/-- The bit vector a register holds, its LEN being legal (R22): `v[j] = DATA[n-1-j]`; the bits above LEN
are ignored. -/
def VReg.bits (r : VReg) : Bits :=
  (List.range r.len.toNat).map fun j => r.data.getLsbD (r.len.toNat - 1 - j)

/-- `vec(V[i])` (R22): a LEN above 10 raises `ShapeViolation`. -/
def vec (s : State) (i : VIdx) : Except Error Bits :=
  if (s.vreg i).len.toNat > 10 then .error .shapeViolation else .ok (s.vreg i).bits

/-- Entry `p` of the user table: 1 to 8 are the nibbles of TBL0 from bit 0 up (R29), 9 and 10 are in
TBL1 (R30). -/
def userEntry (s : State) (p : Nat) : Nat :=
  if p ≤ 8 then (s.tbl0.extractLsb' (4 * p - 4) 4).toNat
  else if p = 9 then s.tbl1.entry9.toNat
  else s.tbl1.entry10.toNat

/-- `userTable()` (R31): a TLEN above 10 raises `ShapeViolation`; entries beyond TLEN are ignored. -/
def userTable (s : State) : Except Error PermTable :=
  if s.tbl1.tlen.toNat > 10 then .error .shapeViolation
  else .ok ((List.range s.tbl1.tlen.toNat).map fun k => userEntry s (k + 1))

/-- The shape check of an operation on vectors of length `n` (R120, R130, R140, R151): another length
raises `ShapeViolation` (R175). -/
def requireLength (x : Bits) (n : Nat) : Except Error Unit :=
  if x.length = n then .ok () else .error .shapeViolation

/-- Two destinations must differ, else the command is illegal (R87). The decoder checks this first, so a
step never reaches it; it gives the ill-formed commands of `Instr` the spec's own effect. -/
def distinctDests (rd rd2 : VIdx) : Except Error Unit :=
  if rd = rd2 then .error .illegalCommand else .ok ()

end Sys2Proof.Machine
end

