-- ==== Sys2Proof/Machine/BitVector.lean ====
section
/-!
DEFINITION. The bit-vector family (40_bit_vector.md R100 to R108): the primitives of the
permutation_unit and the bit_vector_mixer, and the commands `permute`, `split`, `rotl`, `xor` and
`concat`.
-/

namespace Sys2Proof.Machine

/-! ### Primitives -/

/-- `permute(x, T)` (R100): every entry is checked first, then `y[i-1] = x[T[i]-1]`. -/
def permute (x : Bits) (t : PermTable) : Except Error Bits :=
  if ∀ p ∈ t, 1 ≤ p ∧ p ≤ x.length then .ok (t.map fun p => x.getD (p - 1) false)
  else .error .indexOutOfRange

/-- `splitHalf(x)` (R102): an odd length raises `ShapeViolation`. -/
def splitHalf (x : Bits) : Except Error (Bits × Bits) :=
  if x.length % 2 = 1 then .error .shapeViolation
  else .ok (x.take (x.length / 2), x.drop (x.length / 2))

/-- `rotateLeft(x, k)` (R104): an amount above the length raises `ShapeViolation`. -/
def rotateLeft (x : Bits) (k : Nat) : Except Error Bits :=
  if k > x.length then .error .shapeViolation else .ok (x.drop k ++ x.take k)

/-- `xor(a, b)` (R106): unequal lengths raise `LengthMismatch`. -/
def xorBits (a b : Bits) : Except Error Bits :=
  if a.length ≠ b.length then .error .lengthMismatch else .ok (List.zipWith Bool.xor a b)

/-- `a ++ b` for a register (R108): more than 10 elements raise `ShapeViolation`. -/
def concatBits (a b : Bits) : Except Error Bits :=
  if a.length + b.length > 10 then .error .shapeViolation else .ok (a ++ b)

/-! ### permute -/

/-- `permute` with a given table (R101): the source is read before the table. -/
def permuteWith (rd rs1 : VIdx) (table : Except Error PermTable) (s : State) :
    Host.Outcome State Fault Refusal :=
  commit s do
    let x ← vec s rs1
    let t ← table
    let y ← permute x t
    return [(rd, y)]

/-- `permute vD, vS, ip` (R101). -/
def execPermuteIp (rd rs1 : VIdx) (s : State) : Host.Outcome State Fault Refusal :=
  permuteWith rd rs1 (.ok s.cfg.tables.ip) s

/-- `permute vD, vS, ipinv` (R101). -/
def execPermuteIpinv (rd rs1 : VIdx) (s : State) : Host.Outcome State Fault Refusal :=
  permuteWith rd rs1 (.ok s.cfg.tables.ipinv) s

/-- `permute vD, vS, ep` (R101). -/
def execPermuteEp (rd rs1 : VIdx) (s : State) : Host.Outcome State Fault Refusal :=
  permuteWith rd rs1 (.ok s.cfg.tables.ep) s

/-- `permute vD, vS, p4` (R101). -/
def execPermuteP4 (rd rs1 : VIdx) (s : State) : Host.Outcome State Fault Refusal :=
  permuteWith rd rs1 (.ok s.cfg.tables.p4) s

/-- `permute vD, vS, p10` (R101). -/
def execPermuteP10 (rd rs1 : VIdx) (s : State) : Host.Outcome State Fault Refusal :=
  permuteWith rd rs1 (.ok s.cfg.tables.p10) s

/-- `permute vD, vS, p8` (R101). -/
def execPermuteP8 (rd rs1 : VIdx) (s : State) : Host.Outcome State Fault Refusal :=
  permuteWith rd rs1 (.ok s.cfg.tables.p8) s

/-- `permute vD, vS, tbl` (R101): the user table of R31, whose TLEN is checked before its entries
(R179). -/
def execPermuteTbl (rd rs1 : VIdx) (s : State) : Host.Outcome State Fault Refusal :=
  permuteWith rd rs1 (userTable s) s

/-! ### split, rotl, xor, concat -/

/-- `split vD, vD2, vS` (R103). -/
def execSplit (rd rd2 rs1 : VIdx) (s : State) : Host.Outcome State Fault Refusal :=
  commit s do
    distinctDests rd rd2
    let x ← vec s rs1
    let (a, b) ← splitHalf x
    return [(rd, a), (rd2, b)]

/-- `rotl vD, vS, n` (R105). -/
def execRotl (rd rs1 : VIdx) (n : Fin 16) (s : State) : Host.Outcome State Fault Refusal :=
  commit s do
    let x ← vec s rs1
    let y ← rotateLeft x n.val
    return [(rd, y)]

/-- `xor vD, vA, vB` (R107): RS1 is read first, then RS2 (R94). -/
def execXor (rd rs1 rs2 : VIdx) (s : State) : Host.Outcome State Fault Refusal :=
  commit s do
    let a ← vec s rs1
    let b ← vec s rs2
    let y ← xorBits a b
    return [(rd, y)]

/-- `concat vD, vA, vB` (R108). -/
def execConcat (rd rs1 rs2 : VIdx) (s : State) : Host.Outcome State Fault Refusal :=
  commit s do
    let a ← vec s rs1
    let b ← vec s rs2
    let y ← concatBits a b
    return [(rd, y)]

end Sys2Proof.Machine
end

