-- ==== Sys2Proof/Machine/KeySchedule.lean ====
section
/-!
DEFINITION. The key_schedule_engine family (42_key_schedule.md R130, R131): `generateSubkeys` and the
command `keygen`.
-/

namespace Sys2Proof.Machine

/-- One pass of R130's loop: rotate both halves by `k` and take the subkey through P8. -/
def subkeyRound (t : Tables) (k : Nat) (l r : Bits) : Except Error (Bits × Bits × Bits) := do
  let l' ← rotateLeft l k
  let r' ← rotateLeft r k
  let key ← permute (l' ++ r') t.p8
  return (l', r', key)

/-- `generateSubkeys(K)` (R130): the shifts are cumulative, the second round rotating the halves the
first one has rotated. -/
def generateSubkeys (t : Tables) (k : Bits) : Except Error (Bits × Bits) := do
  requireLength k 10
  let p ← permute k t.p10
  let (l, r) ← splitHalf p
  let (l1, r1, k1) ← subkeyRound t ls[0] l r
  let (_, _, k2) ← subkeyRound t ls[1] l1 r1
  return (k1, k2)

/-- `keygen vD, vD2, vK` (R131). -/
def execKeygen (rd rd2 rs1 : VIdx) (s : State) : Host.Outcome State Fault Refusal :=
  commit s do
    distinctDests rd rd2
    let k ← vec s rs1
    let (k1, k2) ← generateSubkeys s.cfg.tables k
    return [(rd, k1), (rd2, k2)]

end Sys2Proof.Machine
end

