-- ==== Sys2Proof/Machine/Sbox.lean ====
section
/-!
DEFINITION. The sbox_lookup family (41_sbox.md R120, R121): `substitute` and the command `sbox`.
-/

namespace Sys2Proof.Machine

/-- The index `2*hi + lo`, an integer 0 to 3 (R120). -/
def twoBits (hi lo : Bool) : Fin 4 :=
  ⟨2 * hi.toNat + lo.toNat, by cases hi <;> cases lo <;> decide⟩

/-- `substitute(x, S)` (R120): the row from the outer bits, the column from the inner ones, the value
with its high bit first; a length other than 4 raises `ShapeViolation`. -/
def substitute (x : Bits) (box : SBox) : Except Error Bits :=
  match x with
  | [x0, x1, x2, x3] =>
      let row := twoBits x0 x3
      let col := twoBits x1 x2
      let v := box[row][col].val
      .ok [v / 2 == 1, v % 2 == 1]
  | _ => .error .shapeViolation

/-- `sbox` with a given box (R121). -/
def sboxWith (rd rs1 : VIdx) (box : SBox) (s : State) : Host.Outcome State Fault Refusal :=
  commit s do
    let x ← vec s rs1
    let y ← substitute x box
    return [(rd, y)]

/-- `sbox vD, vS, s0` (R121). -/
def execSboxS0 (rd rs1 : VIdx) (s : State) : Host.Outcome State Fault Refusal :=
  sboxWith rd rs1 s.cfg.tables.s0 s

/-- `sbox vD, vS, s1` (R121). -/
def execSboxS1 (rd rs1 : VIdx) (s : State) : Host.Outcome State Fault Refusal :=
  sboxWith rd rs1 s.cfg.tables.s1 s

end Sys2Proof.Machine
end

