-- ==== Sys2Proof/Machine/RoundFunction.lean ====
section
/-!
DEFINITION. The round function (43_round_function.md R140, R141) and the command `round`.
-/

namespace Sys2Proof.Machine

/-- `roundFunction(R, k)` (R140): a half of length other than 4 raises `ShapeViolation`; a subkey of
length other than EP's raises `LengthMismatch` at the XOR. -/
def roundFunction (t : Tables) (r k : Bits) : Except Error Bits := do
  requireLength r 4
  let e ← permute r t.ep
  let x ← xorBits e k
  let (a, b) ← splitHalf x
  let sa ← substitute a t.s0
  let sb ← substitute b t.s1
  permute (sa ++ sb) t.p4

/-- `round vD, vR, vK` (R141). -/
def execRound (rd rs1 rs2 : VIdx) (s : State) : Host.Outcome State Fault Refusal :=
  commit s do
    let r ← vec s rs1
    let k ← vec s rs2
    let y ← roundFunction s.cfg.tables r k
    return [(rd, y)]

end Sys2Proof.Machine
end

