-- ==== Sys2Proof/Machine/Cipher.lean ====
section
/-!
DEFINITION. The cipher family (44_cipher.md R150 to R154): the two-round Feistel structure, `encrypt`,
`decrypt` and their commands.
-/

namespace Sys2Proof.Machine

/-- One Feistel round (R150): `L' = R; R' = xor(L, roundFunction(R, k))`. -/
def feistelRound (t : Tables) (k l r : Bits) : Except Error (Bits × Bits) := do
  let f ← roundFunction t r k
  let r' ← xorBits l f
  return (r, r')

/-- The vector IP⁻¹ is applied to (R37, R150). -/
def joinHalves (o : HalfOrder) (l r : Bits) : Bits :=
  match o with
  | .r2l2 => r ++ l
  | .l2r2 => l ++ r

/-- `feistel(X, ka, kb)` (R150). -/
def feistel (c : Config) (x ka kb : Bits) : Except Error Bits := do
  let t ← permute x c.tables.ip
  let (l0, r0) ← splitHalf t
  let (l1, r1) ← feistelRound c.tables ka l0 r0
  let (l2, r2) ← feistelRound c.tables kb l1 r1
  permute (joinHalves c.finalHalfOrder l2 r2) c.tables.ipinv

/-- `encrypt(P, K)` (R151): the block is checked before the key; the first subkey, then the second. -/
def encrypt (c : Config) (p k : Bits) : Except Error Bits := do
  requireLength p 8
  requireLength k 10
  let (k1, k2) ← generateSubkeys c.tables k
  feistel c p k1 k2

/-- `decrypt(C, K)` (R152): "identical structure but subkeys applied in reverse order". -/
def decrypt (c : Config) (x k : Bits) : Except Error Bits := do
  requireLength x 8
  requireLength k 10
  let (k1, k2) ← generateSubkeys c.tables k
  feistel c x k2 k1

/-- `encrypt vD, vP, vK` (R153). -/
def execEncrypt (rd rs1 rs2 : VIdx) (s : State) : Host.Outcome State Fault Refusal :=
  commit s do
    let p ← vec s rs1
    let k ← vec s rs2
    let y ← encrypt s.cfg p k
    return [(rd, y)]

/-- `decrypt vD, vC, vK` (R154). -/
def execDecrypt (rd rs1 rs2 : VIdx) (s : State) : Host.Outcome State Fault Refusal :=
  commit s do
    let x ← vec s rs1
    let k ← vec s rs2
    let y ← decrypt s.cfg x k
    return [(rd, y)]

end Sys2Proof.Machine
end

