-- ==== Sys2Proof/Machine/Control.lean ====
section
/-!
DEFINITION. The control family (45_control.md R160): `nop`, the only command that does no operation.
-/

namespace Sys2Proof.Machine

/-- `nop` (R160): no destination; R94 step 4 sets `STATUS.ERR <- OK`, and FAULT is unchanged. -/
def execNop (s : State) : Host.Outcome State Fault Refusal := commit s (.ok [])

end Sys2Proof.Machine
end

