-- ==== Sys2Proof/Machine/Dispatch.lean ====
section
/-!
DEFINITION. One arm for each command: the call of its meaning.
-/

namespace Sys2Proof.Machine

def exec (i : Instr) (s : State) : Host.Outcome State Fault Refusal :=
  match i with
  | .nop => Sys2Proof.Machine.execNop s
  | .permuteIp rd rs1 => Sys2Proof.Machine.execPermuteIp rd rs1 s
  | .permuteIpinv rd rs1 => Sys2Proof.Machine.execPermuteIpinv rd rs1 s
  | .permuteEp rd rs1 => Sys2Proof.Machine.execPermuteEp rd rs1 s
  | .permuteP4 rd rs1 => Sys2Proof.Machine.execPermuteP4 rd rs1 s
  | .permuteP10 rd rs1 => Sys2Proof.Machine.execPermuteP10 rd rs1 s
  | .permuteP8 rd rs1 => Sys2Proof.Machine.execPermuteP8 rd rs1 s
  | .permuteTbl rd rs1 => Sys2Proof.Machine.execPermuteTbl rd rs1 s
  | .xor rd rs1 rs2 => Sys2Proof.Machine.execXor rd rs1 rs2 s
  | .split rd rd2 rs1 => Sys2Proof.Machine.execSplit rd rd2 rs1 s
  | .rotl rd rs1 n => Sys2Proof.Machine.execRotl rd rs1 n s
  | .concat rd rs1 rs2 => Sys2Proof.Machine.execConcat rd rs1 rs2 s
  | .sboxS0 rd rs1 => Sys2Proof.Machine.execSboxS0 rd rs1 s
  | .sboxS1 rd rs1 => Sys2Proof.Machine.execSboxS1 rd rs1 s
  | .keygen rd rd2 rs1 => Sys2Proof.Machine.execKeygen rd rd2 rs1 s
  | .round rd rs1 rs2 => Sys2Proof.Machine.execRound rd rs1 rs2 s
  | .encrypt rd rs1 rs2 => Sys2Proof.Machine.execEncrypt rd rs1 rs2 s
  | .decrypt rd rs1 rs2 => Sys2Proof.Machine.execDecrypt rd rs1 rs2 s

end Sys2Proof.Machine
end

