-- ==== Sys2Proof/Machine/Window.lean ====
section
/-!
DEFINITION. The register window (20_memory.md R51 to R59): the map of offsets to registers, the host's
read of a register, and the host's write of every register but CMD, whose write executes (Execute.lean).
-/

namespace Sys2Proof.Machine

/-- What an aligned offset of the window names (R52). -/
inductive WindowReg where
  | cmd
  | status
  | tbl0
  | tbl1
  | v (i : VIdx)
  /-- 0x30, 0x34, 0x38 and 0x3C (R53). -/
  | reserved
  deriving DecidableEq, Repr

/-- "The offset of an access must be a multiple of 4" (R55), and every access is 4 bytes (R54). -/
def accessOk (off : BitVec 6) (size : Nat) : Bool := off.toNat % 4 == 0 && size == 4

/-- The register map (R52), by the offset's word index: `V[i]` stands at `0x10 + 4i`. -/
def windowReg (off : BitVec 6) : WindowReg :=
  match off.toNat / 4 with
  | 0 => .cmd
  | 1 => .status
  | 2 => .tbl0
  | 3 => .tbl1
  | k + 4 => if h : k < 8 then .v ⟨k, h⟩ else .reserved

/-- The TBL1 word (R58): `zext_32(TBL1.TLEN << 16 | entry(10) << 4 | entry(9))`. -/
def Tbl1.word (t : Tbl1) : Word :=
  t.tlen.setWidth 32 <<< 16 ||| t.entry10.setWidth 32 <<< 4 ||| t.entry9.setWidth 32

/-- What a write leaves in TBL1 (R30, R59): only its implemented bits. -/
def Tbl1.ofWord (w : Word) : Tbl1 :=
  ⟨w.extractLsb' 16 4, w.extractLsb' 4 4, w.extractLsb' 0 4⟩

/-- The word of a vector register (R21, R58): `zext_32(V[i].LEN << 16 | V[i].DATA)`. -/
def VReg.word (r : VReg) : Word := r.len.setWidth 32 <<< 16 ||| r.data.setWidth 32

/-- What a write leaves in a vector register (R59): "LEN and DATA as written". -/
def VReg.ofWord (w : Word) : VReg := ⟨w.extractLsb' 16 4, w.extractLsb' 0 10⟩

/-- The host's read of a register (R58); it has no side effect. -/
def readReg (s : State) (r : WindowReg) : Word :=
  match r with
  | .cmd => s.cmdreg
  | .status => statusWord s.err s.fault
  | .tbl0 => s.tbl0
  | .tbl1 => s.tbl1.word
  | .v i => (s.vreg i).word
  | .reserved => 0

/-- `MemRead(off, 4)` for an aligned offset (R58). -/
def memRead (s : State) (off : BitVec 6) : Word := readReg s (windowReg off)

/-- The host's write of a register (R59), less the execution that a write of CMD starts. -/
def storeReg (s : State) (r : WindowReg) (w : Word) : State :=
  match r with
  | .cmd => s.setCmdreg w
  | .status => if clearsFault w then s.clearFault else s
  | .tbl0 => s.setTbl0 w
  | .tbl1 => s.setTbl1 (.ofWord w)
  | .v i => s.setVReg i (.ofWord w)
  | .reserved => s

end Sys2Proof.Machine
end

