-- ==== Sys2Proof/Machine/Execute.lean ====
section
/-!
DEFINITION. The execution of a command word (30_encoding.md R94), the host's write with the command it
starts (20_memory.md R59, R61), and the service of one bus event (R55, R61, R68, R69, R190).
-/

namespace Sys2Proof.Machine

/-- `Execute(w)` (R94): decode, or fail with `IllegalCommand`; then the command's meaning. -/
def execute (w : Word) (s : State) : Host.Outcome State Fault Refusal :=
  match decode w with
  | .ok i => exec i s
  | .error _ => .next (s.recordFailure .illegalCommand)

/-- `MemWrite(off, 4, w)` for an aligned offset (R59). A write of CMD stores the word, then executes
it. -/
def memWrite (s : State) (off : BitVec 6) (w : Word) : Host.Outcome State Fault Refusal :=
  match windowReg off with
  | .cmd => execute w (storeReg s .cmd w)
  | r => .next (storeReg s r w)

/-- The access has completed (R69): its reply is recorded. -/
def acknowledge (r : Reply) : Host.Outcome State Fault Refusal → Host.Outcome State Fault Refusal
  | .next s => .next (s.pushReply r)
  | .fault f => .fault f
  | .refused f => .refused f

/-- One host access, as one atomic step (R61). A misaligned or sub-word access ends with `bus_err`, has
no effect, and a read of it returns 0 (R55, R181). -/
def serve (a : Access) (s : State) : Host.Outcome State Fault Refusal :=
  match a with
  | .read off size =>
      if accessOk off size then .next (s.pushReply ⟨false, some (memRead s off)⟩)
      else .next (s.pushReply ⟨true, some 0⟩)
  | .write off size w =>
      if accessOk off size then acknowledge ⟨false, none⟩ (memWrite s off w)
      else .next (s.pushReply ⟨true, none⟩)

/-- `rst` = 1 at a clock edge (R190): every piece of state takes its reset value (R39). The host's side
of the bus is not the core's state and stays; an access in progress gets no reply. -/
def resetCore (s : State) : State :=
  { State.resetOf s.cfg with inputs := s.inputs, replies := s.replies }

/-- The core's response to one bus event. -/
def serveEvent (e : BusEvent) (s : State) : Host.Outcome State Fault Refusal :=
  match e with
  | .access a => serve a s
  | .reset _ => .next (resetCore s)

/-- The next step: the first bus event still to come. With none, the core is idle and "keeps all its
state" (R189). -/
def stepEvent (s : State) : Host.Outcome State Fault Refusal :=
  match s.inputs with
  | [] => .next s
  | e :: rest => serveEvent e (s.setInputs rest)

/-- The core's response to a list of bus events, the first one first (R62: "one at a time, in the order
the bus presents them"). -/
def serveAll : List BusEvent → State → Host.Outcome State Fault Refusal
  | [], s => .next s
  | e :: rest, s =>
    match serveEvent e s with
    | .next s' => serveAll rest s'
    | .fault f => .fault f
    | .refused r => .refused r

/-- `W off, value` of R93. -/
def hostWrite (off : BitVec 6) (w : Word) : BusEvent := .access (.write off 4 w)

/-- `R off` of R93. -/
def hostRead (off : BitVec 6) : BusEvent := .access (.read off 4)

/-- A write of the command word `w` to CMD, offset 0x00: `C` of R93. -/
def cmdWrite (w : Word) : BusEvent := hostWrite 0x00 w

/-- A command word laid before the events still to come, so that the next step runs it. -/
def presentCommand (s : State) (w : Word) : State := s.setInputs (cmdWrite w :: s.inputs)

end Sys2Proof.Machine
end

