-- ==== Sys2Proof/Machine/Step.lean ====
section
/-!
DEFINITION. One step of the machine: one bus event of its single host (20_memory.md R61, R62; R196: "It
should treat each host access as one step").
-/

namespace Sys2Proof.Machine

/-- One step. -/
def step (s : State) : Host.Outcome State Fault Refusal := stepEvent s

/-- `s` with the command word `w` (its bits above `nbits` zero) as the next host write to CMD: the core
fetches nothing (R24), and the word it executes next is the next one written to CMD. -/
def State.withFetchWord (s : State) (nbits w : Nat) : State :=
  presentCommand s (BitVec.ofNat 32 (w % 2 ^ nbits))

end Sys2Proof.Machine
end

