-- ==== Sys2Proof/Machine/Assembler.lean ====
section
/-!
DEFINITION. The assembly syntax (30_encoding.md R90) over a line's words (its mnemonic and its operands,
the commas and blanks between them removed), and the pseudo-instructions that expand to a command (R91).
`ld`, which is a host write, is in Consumer.lean.
-/

namespace Sys2Proof.Machine

/-- "Register names are `v0` to `v7`" (R90). -/
def regNames : Vector String 8 := #v["v0", "v1", "v2", "v3", "v4", "v5", "v6", "v7"]

/-- "The rotate amount is a decimal number from 0 to 15" (R90). -/
def amountNames : Vector String 16 :=
  #v["0", "1", "2", "3", "4", "5", "6", "7", "8", "9", "10", "11", "12", "13", "14", "15"]

/-- The register a word names. -/
def regNamed (word : String) : Option VIdx :=
  (List.finRange 8).find? fun i => regNames[i] == word

/-- The amount a word names. -/
def amountNamed (word : String) : Option (Fin 16) :=
  (List.finRange 16).find? fun n => amountNames[n] == word

/-- The line of a command (R90's `syntax` column). -/
def asmLine : Instr → List String
  | .nop => ["nop"]
  | .permuteIp rd rs1 => ["permute", regNames[rd], regNames[rs1], "ip"]
  | .permuteIpinv rd rs1 => ["permute", regNames[rd], regNames[rs1], "ipinv"]
  | .permuteEp rd rs1 => ["permute", regNames[rd], regNames[rs1], "ep"]
  | .permuteP4 rd rs1 => ["permute", regNames[rd], regNames[rs1], "p4"]
  | .permuteP10 rd rs1 => ["permute", regNames[rd], regNames[rs1], "p10"]
  | .permuteP8 rd rs1 => ["permute", regNames[rd], regNames[rs1], "p8"]
  | .permuteTbl rd rs1 => ["permute", regNames[rd], regNames[rs1], "tbl"]
  | .xor rd rs1 rs2 => ["xor", regNames[rd], regNames[rs1], regNames[rs2]]
  | .split rd rd2 rs1 => ["split", regNames[rd], regNames[rd2], regNames[rs1]]
  | .rotl rd rs1 n => ["rotl", regNames[rd], regNames[rs1], amountNames[n]]
  | .concat rd rs1 rs2 => ["concat", regNames[rd], regNames[rs1], regNames[rs2]]
  | .sboxS0 rd rs1 => ["sbox", regNames[rd], regNames[rs1], "s0"]
  | .sboxS1 rd rs1 => ["sbox", regNames[rd], regNames[rs1], "s1"]
  | .keygen rd rd2 rs1 => ["keygen", regNames[rd], regNames[rd2], regNames[rs1]]
  | .round rd rs1 rs2 => ["round", regNames[rd], regNames[rs1], regNames[rs2]]
  | .encrypt rd rs1 rs2 => ["encrypt", regNames[rd], regNames[rs1], regNames[rs2]]
  | .decrypt rd rs1 rs2 => ["decrypt", regNames[rd], regNames[rs1], regNames[rs2]]

/-- A `permute` line, by its table's name. -/
def permuteNamed (rd rs1 : VIdx) (table : String) : Option Instr :=
  if table = "ip" then some (.permuteIp rd rs1)
  else if table = "ipinv" then some (.permuteIpinv rd rs1)
  else if table = "ep" then some (.permuteEp rd rs1)
  else if table = "p4" then some (.permuteP4 rd rs1)
  else if table = "p10" then some (.permuteP10 rd rs1)
  else if table = "p8" then some (.permuteP8 rd rs1)
  else if table = "tbl" then some (.permuteTbl rd rs1)
  else none

/-- An `sbox` line, by its box's name. -/
def sboxNamed (rd rs1 : VIdx) (box : String) : Option Instr :=
  if box = "s0" then some (.sboxS0 rd rs1)
  else if box = "s1" then some (.sboxS1 rd rs1)
  else none

/-- A line of three register operands, by its mnemonic. -/
def registersNamed (mnemonic : String) (a b c : VIdx) : Option Instr :=
  if mnemonic = "xor" then some (.xor a b c)
  else if mnemonic = "split" then some (.split a b c)
  else if mnemonic = "concat" then some (.concat a b c)
  else if mnemonic = "keygen" then some (.keygen a b c)
  else if mnemonic = "round" then some (.round a b c)
  else if mnemonic = "encrypt" then some (.encrypt a b c)
  else if mnemonic = "decrypt" then some (.decrypt a b c)
  else none

/-- A pseudo-instruction that expands to one command (R91). -/
inductive Pseudo where
  | mov (rd rs1 : VIdx)
  | zero (rd rs1 : VIdx)
  /-- "where the assembler must know len(vS)", an even length. -/
  | swap (rd rs1 : VIdx) (len : Nat)
  | ip (rd rs1 : VIdx)
  | ipinv (rd rs1 : VIdx)
  deriving DecidableEq, Repr

/-- The command a pseudo-instruction is written as (R91); none for a `swap` whose amount no IMM holds or
whose length is odd. -/
def Pseudo.expand : Pseudo → Option Instr
  | .mov rd rs1 => some (.rotl rd rs1 0)
  | .zero rd rs1 => some (.xor rd rs1 rs1)
  | .swap rd rs1 len =>
      if h : len / 2 < 16 then
        if len % 2 = 0 then some (.rotl rd rs1 ⟨len / 2, h⟩) else none
      else none
  | .ip rd rs1 => some (.permuteIp rd rs1)
  | .ipinv rd rs1 => some (.permuteIpinv rd rs1)

/-- A line of two register operands: the pseudo-instructions whose length the line need not know. -/
def pseudoNamed (mnemonic : String) (a b : VIdx) : Option Pseudo :=
  if mnemonic = "mov" then some (.mov a b)
  else if mnemonic = "zero" then some (.zero a b)
  else if mnemonic = "ip" then some (.ip a b)
  else if mnemonic = "ipinv" then some (.ipinv a b)
  else none

/-- The command a line stands for, or none if it is no line of R90 or R91. -/
def assemble : List String → Option Instr
  | [m] => if m = "nop" then some .nop else none
  | [m, a, b] => do
      let ra ← regNamed a
      let rb ← regNamed b
      let p ← pseudoNamed m ra rb
      p.expand
  | [m, a, b, c] => do
      let ra ← regNamed a
      let rb ← regNamed b
      if m = "permute" then permuteNamed ra rb c
      else if m = "sbox" then sboxNamed ra rb c
      else if m = "rotl" then (amountNamed c).map (.rotl ra rb)
      else (regNamed c).bind (registersNamed m ra rb)
  | _ => none

end Sys2Proof.Machine
end

