-- ==== Sys2Proof/Machine/Consumer.lean ====
section
/-!
DEFINITION. The host's side, as the consumer contract binds it (20_memory.md R71 to R75): text
conversion, the loading of an operand (R91's `ld`), the key search as a function, its parallel form, and
the search as a loop of bus accesses (95_test_vectors.md program 5). None of it is core behaviour.
-/

namespace Sys2Proof.Machine

/-! ### Text conversion and loading (R74) -/

/-- One character is one element; a character other than '0' or '1' is `InvalidBitValue`. -/
def parseChar (c : Char) : Except Error Bool :=
  if c = '0' then .ok false else if c = '1' then .ok true else .error .invalidBitValue

/-- A string of '0' and '1' as a bit vector, the first character being element 0. -/
def parseBits : List Char → Except Error Bits
  | [] => .ok []
  | c :: cs => do
    let b ← parseChar c
    let bs ← parseBits cs
    return b :: bs

/-- A bit vector as its string (R11). -/
def renderBits (x : Bits) : List Char := x.map fun b => if b then '1' else '0'

/-- The word that loads a vector: `zext_32(n << 16 | val(v))`. -/
def loadWord (x : Bits) : Word := BitVec.ofNat 32 (x.length <<< 16 ||| val x)

/-- The window offset of `V[i]`: `0x10 + 4i` (R52). -/
def vregOffset (i : VIdx) : BitVec 6 := BitVec.ofNat 6 (0x10 + 4 * i.val)

/-- `ld vI, "<bits>"` (R91). -/
def ldEvent (i : VIdx) (x : Bits) : BusEvent := hostWrite (vregOffset i) (loadWord x)

/-! ### The search as a function (R71 to R73, R75) -/

/-- The candidate key of value `k`, MSB first (R71). -/
def candidate (k : Nat) : Bits := bitsOf 10 k

/-- The match test (R72): `decrypt(C, k) = P` and `encrypt(P, k) = C`. -/
def isMatch (c : Config) (p x : Bits) (k : Nat) : Bool :=
  decide (decrypt c x (candidate k) = .ok p) && decide (encrypt c p (candidate k) = .ok x)

/-- The candidate keys in their order, 0 to 1023 (R71). -/
def keySpace : List Nat := List.range 1024

/-- What the consumer reports (R73): the first match in that order, or none for "not found". -/
def search (c : Config) (p x : Bits) : Option Nat := keySpace.find? (isMatch c p x)

/-- The collect-all policy (R75): every matching key. -/
def collectAll (c : Config) (p x : Bits) : List Nat := keySpace.filter (isMatch c p x)

/-- A parallel search (R75): each part of the key space is tried on its own, and ties are "broken by
ascending integer value of the key". -/
def parallelSearch (c : Config) (p x : Bits) (parts : List (List Nat)) : Option Nat :=
  (parts.flatMap fun part => part.filter (isMatch c p x)).min?

/-! ### The search as a loop of bus accesses (95_test_vectors.md program 5)

The plaintext is in v0 and the ciphertext in v4 throughout; v1 holds the candidate, v2 and v3 the two
results. -/

/-- One pass of the loop: load the key, encrypt, decrypt, read both results. -/
def trialEvents (k : Nat) : List BusEvent :=
  [ldEvent 1 (candidate k),
   cmdWrite (encode (.encrypt 2 0 1)),
   cmdWrite (encode (.decrypt 3 4 1)),
   hostRead (vregOffset 2),
   hostRead (vregOffset 3)]

/-- The values of the reads completed since `s`, on the way to `s'`. -/
def newReads (s s' : State) : List Word :=
  (s'.replies.drop s.replies.length).filterMap fun r => r.rdata

/-- The host's loop over the keys of a list: it stops at the first one whose two results read back as
the ciphertext and the plaintext. -/
def driverLoop (p x : Bits) : List Nat → State → Option Nat
  | [], _ => none
  | k :: rest, s =>
    match serveAll (trialEvents k) s with
    | .next s' =>
        if newReads s s' = [loadWord x, loadWord p] then some k else driverLoop p x rest s'
    | .fault _ => none
    | .refused _ => none

/-- Program 5: load the pair, then loop over the key space. -/
def driver (p x : Bits) (s : State) : Option Nat :=
  match serveAll [ldEvent 0 p, ldEvent 4 x] s with
  | .next s' => driverLoop p x keySpace s'
  | .fault _ => none
  | .refused _ => none

end Sys2Proof.Machine
end

