-- ==== Sys2Proof/Machine/Platform.lean ====
section
/-!
DEFINITION. The platform between the host and the window, whose properties the spec leaves OPEN
(20_memory.md R51, R56, R62, R67, R70; 93_implementation_defined.md, P): "The model takes the value as an
argument". The core sees none of it.
-/

namespace Sys2Proof.Machine

/-- The OPEN parameters of the platform. -/
structure Platform where
  /-- `BASE`: the host address of offset 0x00 (R51). -/
  base       : Nat
  /-- `HOST_BYTE_ORDER`: bus byte lane `k` carries host byte `lanes[k]` (R56). -/
  lanes      : Vector (Fin 4) 4
  /-- `HOST_BUS_ORDERING`: whether the accesses reach the bus in program order (R62). -/
  keepsOrder : Bool
  /-- `WINDOW_PROTECTION`: the masters that may not reach the window (R67). -/
  blocked    : List Nat
  deriving DecidableEq, Repr

/-- "The mapping cannot change a register's value" (R56): every host byte is on exactly one lane. -/
abbrev Platform.LanesDistinct (p : Platform) : Prop := p.lanes.toList.Nodup

/-- An access as a host's program makes it: the master, the host address, the size, and the bytes
written, none for a read. -/
structure HostAccess where
  master : Nat
  addr   : Nat
  size   : Nat
  bytes  : Option (Vector (BitVec 8) 4)
  deriving DecidableEq, Repr

/-- The bus word of four host bytes, lane 3 the most significant (R13, R56). -/
def wordOfBytes (lanes : Vector (Fin 4) 4) (b : Vector (BitVec 8) 4) : Word :=
  b[lanes[3]] ++ b[lanes[2]] ++ b[lanes[1]] ++ b[lanes[0]]

/-- Byte `j` of the host's view of a bus word: that of the lane which carries it. -/
def hostByte (lanes : Vector (Fin 4) 4) (w : Word) (j : Fin 4) : BitVec 8 :=
  match (List.finRange 4).find? fun k => lanes[k] == j with
  | some k => w.extractLsb' (8 * k.val) 8
  | none => 0

/-- The window offset of a host address: 64 bytes from `BASE` (R51). -/
def offsetOf (base addr : Nat) : Option (BitVec 6) :=
  if base ≤ addr ∧ addr < base + 64 then some (BitVec.ofNat 6 (addr - base)) else none

/-- The bus access that a host access makes, if it reaches the window. -/
def Platform.accessOf (p : Platform) (a : HostAccess) : Option Access :=
  if a.master ∈ p.blocked then none
  else (offsetOf p.base a.addr).map fun off =>
    match a.bytes with
    | none => .read off a.size
    | some b => .write off a.size (wordOfBytes p.lanes b)

/-- The bus events of a sequence of host accesses, one at a time in its order (R62, R70). A platform that
does not keep program order is refused (93_implementation_defined.md, P). -/
def Platform.deliver (p : Platform) (as : List HostAccess) : Option (List BusEvent) :=
  if p.keepsOrder then some ((as.filterMap p.accessOf).map .access) else none

end Sys2Proof.Machine
end

