-- ==== Sys2Proof/Safety.lean ====
section
/-!
DEFINITION. The terms claims are stated in: the invariant of the machine, what a command leaves
unchanged, when it succeeds and when it fails, a run without failures, and what a run shows.
-/

namespace Sys2Proof.Machine

/-- "`ERR` holds only the codes 0 to 5" (R26), of which 3 is never produced by the core (R27, R174). -/
abbrev errLegal (c : BitVec 4) : Prop := c = 0 ∨ c = 1 ∨ c = 2 ∨ c = 4 ∨ c = 5

/-- The invariant every step keeps: a configuration that meets R33, and a status code the core
produces. -/
abbrev State.Inv (s : State) : Prop := s.cfg.WellFormed ∧ errLegal s.err

/-- A register as a command writes it (R23): a legal LEN, and `DATA[9:n] = 0`. -/
abbrev VReg.Canonical (r : VReg) : Prop := r.len.toNat ≤ 10 ∧ r.data.toNat < 2 ^ r.len.toNat

/-- Nothing but the named vector registers and STATUS differs between `s` and `t`. -/
structure OnlyWrites (dests : List VIdx) (s t : State) : Prop where
  vregs   : ∀ j, j ∉ dests → t.vreg j = s.vreg j
  tbl0    : t.tbl0 = s.tbl0
  tbl1    : t.tbl1 = s.tbl1
  cmdreg  : t.cmdreg = s.cmdreg
  cfg     : t.cfg = s.cfg
  inputs  : t.inputs = s.inputs
  replies : t.replies = s.replies
  window  : ∀ off, windowReg off ≠ .status → (∀ d ∈ dests, windowReg off ≠ .v d) →
              memRead t off = memRead s off

/-- The command completes: it writes these vectors to these registers, sets ERR to 0, keeps FAULT, and
changes nothing else (R178). -/
def Succeeds (i : Instr) (s : State) (writes : List (VIdx × Bits)) : Prop :=
  ∃ t, exec i s = .next t ∧
    (∀ p ∈ writes, vec t p.1 = .ok p.2 ∧ (t.vreg p.1).Canonical) ∧
    t.err = 0 ∧ t.fault = s.fault ∧ OnlyWrites (writes.map Prod.fst) s t

/-- The command fails with this code: ERR holds it, FAULT is 1, and nothing else changes (R177). -/
def FailsWith (i : Instr) (s : State) (code : BitVec 4) : Prop :=
  ∃ t, exec i s = .next t ∧ t.err = code ∧ t.fault = true ∧ OnlyWrites [] s t

/-- The registers a command writes (R84). -/
def destsOf : Instr → List VIdx
  | .nop => []
  | .permuteIp rd _ => [rd]
  | .permuteIpinv rd _ => [rd]
  | .permuteEp rd _ => [rd]
  | .permuteP4 rd _ => [rd]
  | .permuteP10 rd _ => [rd]
  | .permuteP8 rd _ => [rd]
  | .permuteTbl rd _ => [rd]
  | .xor rd _ _ => [rd]
  | .split rd rd2 _ => [rd, rd2]
  | .rotl rd _ _ => [rd]
  | .concat rd _ _ => [rd]
  | .sboxS0 rd _ => [rd]
  | .sboxS1 rd _ => [rd]
  | .keygen rd rd2 _ => [rd, rd2]
  | .round rd _ _ => [rd]
  | .encrypt rd _ _ => [rd]
  | .decrypt rd _ _ => [rd]

/-- A run of the host's program that no command of it failed in: every claim about results takes
"`FAULT = 0` at the end" as its premise (92_eei_decisions.md D12). -/
def EndsClean (o : Host.Outcome State Fault Refusal) : Prop := ∃ t, o = .next t ∧ t.fault = false

/-- What a run shows (R197): the values its reads return, and the final register state. -/
structure Observation where
  reads     : List Word
  registers : List Word
  deriving DecidableEq, Repr

/-- The observation of a state a run has reached. -/
def observe (s : State) : Observation where
  reads     := s.replies.filterMap fun r => r.rdata
  registers := (List.range 16).map fun k => memRead s (BitVec.ofNat 6 (4 * k))

end Sys2Proof.Machine
end

