-- ==== Sys2Proof/Certificates/Slice0/Obligations.lean ====
section
/-!
DEFINITION. The statements for the provers, from the spec's numbered rules. `Sys2Proof.Reference` holds
the expected values they name, written from the rules' own text without the model's primitives: element
by element, with 1-based positions and plain arithmetic on lengths. Where a statement says what becomes
of `inputs` and `replies`, the host's side of the bus, that is the model's own form of it (log entry 2).
-/

namespace Sys2Proof.Reference

open Sys2Proof.Machine

/-! ### Expected values -/

/-- The element at a 1-based position (R9). -/
def elem (x : Bits) (p : Nat) : Bool := x.getD (p - 1) false

/-- The elements a table names, in its order (R100). -/
def rearranged (x : Bits) (t : PermTable) : Bits := t.map (elem x)

/-- The LEN field of a register, as a number. -/
def lenOf (s : State) (i : VIdx) : Nat := (s.vreg i).len.toNat

/-- Entry `p` of the user table, from the words' nibbles (R29, R30). -/
def tableEntry (s : State) (p : Nat) : Nat :=
  if p ≤ 8 then s.tbl0.toNat / 16 ^ (p - 1) % 16
  else if p = 9 then s.tbl1.entry9.toNat
  else s.tbl1.entry10.toNat

/-- The entries 1 to TLEN (R31). -/
def tableEntries (s : State) : PermTable :=
  (List.range s.tbl1.tlen.toNat).map fun k => tableEntry s (k + 1)

/-- The position, in the post-P10 vector, of what stands at position `q` once each 5-element half is
rotated left by `n` (R104, R130). -/
def rotatedFrom (n q : Nat) : Nat := if q ≤ 5 then (q - 1 + n) % 5 + 1 else (q - 6 + n) % 5 + 6

/-- The subkey taken after a net rotation of `n`: 1 in round 1 and 1 + 2 = 3 in round 2 (R130, R132). -/
def subkeyOf (t : Tables) (n : Nat) (k : Bits) : Bits :=
  t.p8.map fun q => elem k (t.p10.getD (rotatedFrom n q - 1) 0)

/-- The S-box read as a ROM, addressed by `4*row + col` in the order `x[0] x[3] x[1] x[2]` (R120, R122). -/
def boxBits (box : SBox) (x : Bits) : Bits :=
  let rom := box.toList.flatMap Vector.toList
  let address := 8 * (elem x 1).toNat + 4 * (elem x 4).toNat + 2 * (elem x 2).toNat + (elem x 3).toNat
  let v := (rom.getD address 0).val
  [decide (2 ≤ v), decide (v % 2 = 1)]

/-- The round function on a 4-element half and an 8-element subkey (R140). -/
def roundOf (t : Tables) (r k : Bits) : Bits :=
  let mixed := (List.range 8).map fun j => Bool.xor (elem r (t.ep.getD j 0)) (elem k (j + 1))
  rearranged (boxBits t.s0 (mixed.take 4) ++ boxBits t.s1 (mixed.drop 4)) t.p4

/-- The two-round structure on an 8-element block (R150). -/
def feistelOf (c : Config) (x ka kb : Bits) : Bits :=
  let l0 := (rearranged x c.tables.ip).take 4
  let r0 := (rearranged x c.tables.ip).drop 4
  let r1 := List.zipWith Bool.xor l0 (roundOf c.tables r0 ka)
  let r2 := List.zipWith Bool.xor r0 (roundOf c.tables r1 kb)
  match c.finalHalfOrder with
  | .r2l2 => rearranged (r2 ++ r1) c.tables.ipinv
  | .l2r2 => rearranged (r1 ++ r2) c.tables.ipinv

/-- `encrypt` on an 8-element block and a 10-element key (R151). -/
def encryptOf (c : Config) (p k : Bits) : Bits :=
  feistelOf c p (subkeyOf c.tables 1 k) (subkeyOf c.tables 3 k)

/-- `decrypt` (R152): the subkeys in reverse order. -/
def decryptOf (c : Config) (x k : Bits) : Bits :=
  feistelOf c x (subkeyOf c.tables 3 k) (subkeyOf c.tables 1 k)

/-- Whether some entry of a table lies outside [1, n]. -/
def outside (t : PermTable) (n : Nat) : Bool := t.any fun p => p < 1 || n < p

/-- The code a `permute` with a given table reports. -/
def permuteCode (t : PermTable) (n : Nat) : BitVec 4 :=
  if 10 < n then 4 else if outside t n then 1 else 0

/-- The code each command reports, from the lengths alone, in the order of R179. -/
def reportedCode (i : Instr) (s : State) : BitVec 4 :=
  let t := s.cfg.tables
  match i with
  | .nop => 0
  | .permuteIp _ a => permuteCode t.ip (lenOf s a)
  | .permuteIpinv _ a => permuteCode t.ipinv (lenOf s a)
  | .permuteEp _ a => permuteCode t.ep (lenOf s a)
  | .permuteP4 _ a => permuteCode t.p4 (lenOf s a)
  | .permuteP10 _ a => permuteCode t.p10 (lenOf s a)
  | .permuteP8 _ a => permuteCode t.p8 (lenOf s a)
  | .permuteTbl _ a =>
      if 10 < lenOf s a then 4 else if 10 < s.tbl1.tlen.toNat then 4
      else if outside (tableEntries s) (lenOf s a) then 1 else 0
  | .xor _ a b =>
      if 10 < lenOf s a then 4 else if 10 < lenOf s b then 4
      else if lenOf s a ≠ lenOf s b then 2 else 0
  | .split d d2 a =>
      if d = d2 then 5 else if 10 < lenOf s a then 4 else if lenOf s a % 2 = 1 then 4 else 0
  | .rotl _ a n => if 10 < lenOf s a then 4 else if lenOf s a < n.val then 4 else 0
  | .concat _ a b =>
      if 10 < lenOf s a then 4 else if 10 < lenOf s b then 4
      else if 10 < lenOf s a + lenOf s b then 4 else 0
  | .sboxS0 _ a => if lenOf s a = 4 then 0 else 4
  | .sboxS1 _ a => if lenOf s a = 4 then 0 else 4
  | .keygen d d2 a => if d = d2 then 5 else if lenOf s a = 10 then 0 else 4
  | .round _ a b =>
      if 10 < lenOf s a then 4 else if 10 < lenOf s b then 4
      else if lenOf s a ≠ 4 then 4 else if lenOf s b ≠ 8 then 2 else 0
  | .encrypt _ a b => if lenOf s a = 8 ∧ lenOf s b = 10 then 0 else 4
  | .decrypt _ a b => if lenOf s a = 8 ∧ lenOf s b = 10 then 0 else 4

/-! ### Expected encodings -/

/-- The word does not decode, and executing it reports `IllegalCommand`, code 5, and writes nothing else
(R176, R177). -/
def Illegal (w : Word) : Prop :=
  (∃ e, decode w = .error e) ∧ ∀ s : State, execute w s = .next { s with err := 5, fault := true }

/-- The words of a command with the operands RD and RS1: legal ones decode to it whatever their other
fields hold, and a register field above 7 is illegal (R84, R85). -/
def UnaryWords (op : BitVec 4) (imm : BitVec 4 → Prop) (mk : VIdx → VIdx → Instr) : Prop :=
  ∀ w : Word, rsvField w = 0 → opField w = op → imm (immField w) →
    (∀ d a : VIdx, (rdField w).toNat = d.val → (rs1Field w).toNat = a.val → decode w = .ok (mk d a)) ∧
    (7 < (rdField w).toNat ∨ 7 < (rs1Field w).toNat → Illegal w)

/-- The words of a command with the operands RD, RS1 and RS2. -/
def BinaryWords (op : BitVec 4) (mk : VIdx → VIdx → VIdx → Instr) : Prop :=
  ∀ w : Word, rsvField w = 0 → opField w = op →
    (∀ d a b : VIdx, (rdField w).toNat = d.val → (rs1Field w).toNat = a.val →
      (rs2Field w).toNat = b.val → decode w = .ok (mk d a b)) ∧
    (7 < (rdField w).toNat ∨ 7 < (rs1Field w).toNat ∨ 7 < (rs2Field w).toNat →
      Illegal w)

/-- The words of a command with the operands RD, RD2 and RS1, whose destinations must differ (R87). -/
def PairWords (op : BitVec 4) (mk : VIdx → VIdx → VIdx → Instr) : Prop :=
  ∀ w : Word, rsvField w = 0 → opField w = op →
    (∀ d d2 a : VIdx, d ≠ d2 → (rdField w).toNat = d.val → (rd2Field w).toNat = d2.val →
      (rs1Field w).toNat = a.val → decode w = .ok (mk d d2 a)) ∧
    (7 < (rdField w).toNat ∨ 7 < (rd2Field w).toNat ∨ 7 < (rs1Field w).toNat ∨
      rdField w = rd2Field w → Illegal w)

/-- The words of an opcode with these IMM values are all illegal (R86). -/
def ReservedImm (op : BitVec 4) (imm : BitVec 4 → Prop) : Prop :=
  ∀ w : Word, opField w = op → imm (immField w) → Illegal w

/-- The bits of the word that a command's decoding reads: RSV, OP and the fields it uses (R81, R84). -/
def usedMask : Instr → Word
  | .nop => 0xFF00000F
  | .permuteIp _ _ => 0xFFF00FFF
  | .permuteIpinv _ _ => 0xFFF00FFF
  | .permuteEp _ _ => 0xFFF00FFF
  | .permuteP4 _ _ => 0xFFF00FFF
  | .permuteP10 _ _ => 0xFFF00FFF
  | .permuteP8 _ _ => 0xFFF00FFF
  | .permuteTbl _ _ => 0xFFF00FFF
  | .xor _ _ _ => 0xFF00FFFF
  | .split _ _ _ => 0xFF0F0FFF
  | .rotl _ _ _ => 0xFFF00FFF
  | .concat _ _ _ => 0xFF00FFFF
  | .sboxS0 _ _ => 0xFFF00FFF
  | .sboxS1 _ _ => 0xFFF00FFF
  | .keygen _ _ _ => 0xFF0F0FFF
  | .round _ _ _ => 0xFF00FFFF
  | .encrypt _ _ _ => 0xFF00FFFF
  | .decrypt _ _ _ => 0xFF00FFFF

/-- Field `k` of a word: bits `4k+3` to `4k`, as a number (R81). -/
def nibble (w : Word) (k : Nat) : Nat := w.toNat / 16 ^ k % 16

/-- The legality of a word, as R89 lists it: RSV, OP, the used register fields (R84), IMM (R86) and the
two destinations (R87), over the word's nibbles. -/
def legalWord (w : Word) : Bool :=
  let op := nibble w 0
  let rd := nibble w 1
  let rs1 := nibble w 2
  let rs2 := nibble w 3
  let rd2 := nibble w 4
  let imm := nibble w 5
  decide (w.toNat / 2 ^ 24 = 0) && decide (op ≤ 10) &&
  (op == 0 || (decide (rd ≤ 7) && decide (rs1 ≤ 7))) &&
  (!([2, 5, 8, 9, 10].contains op) || decide (rs2 ≤ 7)) &&
  (!([3, 7].contains op) || (decide (rd2 ≤ 7) && decide (rd ≠ rd2))) &&
  (op != 1 || [0, 1, 2, 3, 4, 5, 7].contains imm) &&
  (op != 6 || [0, 1].contains imm)

/-! ### Expected behaviour of groups of commands -/

/-- What `permute` does with a given table (R101). -/
def PermutesBy (mk : VIdx → VIdx → Instr) (table : State → PermTable) (s : State) : Prop :=
  ∀ d a : VIdx,
    (10 < lenOf s a → FailsWith (mk d a) s 4) ∧
    (∀ x, vec s a = .ok x →
      ((∃ p ∈ table s, p < 1 ∨ x.length < p) → FailsWith (mk d a) s 1) ∧
      ((∀ p ∈ table s, 1 ≤ p ∧ p ≤ x.length) →
        Succeeds (mk d a) s [(d, rearranged x (table s))]))

/-- What `encrypt` and `decrypt` do (R153, R154). -/
def Ciphers (mk : VIdx → VIdx → VIdx → Instr) (result : Config → Bits → Bits → Bits) : Prop :=
  ∀ (s : State) (d a b : VIdx), s.cfg.WellFormed →
    (10 < lenOf s a ∨ 10 < lenOf s b → FailsWith (mk d a b) s 4) ∧
    (∀ x k, vec s a = .ok x → vec s b = .ok k →
      (x.length ≠ 8 ∨ k.length ≠ 10 → FailsWith (mk d a b) s 4) ∧
      (x.length = 8 → k.length = 10 →
        (result s.cfg x k).length = 8 ∧ Succeeds (mk d a b) s [(d, result s.cfg x k)]))

/-- Two registers that differ at most in the bits above LEN. -/
abbrev sameVector (r r' : VReg) : Prop :=
  r.len = r'.len ∧ ∀ k, k < r.len.toNat → r.data.getLsbD k = r'.data.getLsbD k

/-- The outcome of one command of a sequence, and of the rest after it. -/
def execAll : List Instr → State → Host.Outcome State Fault Refusal
  | [], s => .next s
  | i :: rest, s =>
    match exec i s with
    | .next t => execAll rest t
    | .fault f => .fault f
    | .refused r => .refused r

/-- The key schedule from primitives (95_test_vectors.md program 2, steps 2 to 11): key in v0, subkeys in
v4 and v5. -/
def keyScheduleProgram : List Instr :=
  [.permuteP10 1 0, .split 2 3 1, .rotl 2 2 1, .rotl 3 3 1, .concat 4 2 3, .permuteP8 4 4,
   .rotl 2 2 2, .rotl 3 3 2, .concat 5 2 3, .permuteP8 5 5]

/-- Encryption from primitives (95_test_vectors.md program 3, steps 3 to 11): plaintext in v0, key in v1,
ciphertext in v2. -/
def encryptProgram : List Instr :=
  [.keygen 6 7 1, .permuteIp 2 0, .split 3 4 2, .round 5 4 6, .xor 5 3 5, .round 3 5 7, .xor 3 4 3,
   .concat 2 3 5, .permuteIpinv 2 2]

/-- The mask of the bits of a register word that a write keeps (R21, R30, R53). -/
def keptBits : WindowReg → Word
  | .cmd => 0xFFFFFFFF
  | .status => 0
  | .tbl0 => 0xFFFFFFFF
  | .tbl1 => 0x000F00FF
  | .v _ => 0x000F03FF
  | .reserved => 0

end Sys2Proof.Reference

open Sys2Proof Sys2Proof.Machine Sys2Proof.Reference

/-! ### Reset, the step, and the invariant -/

/-- R39: a reset event gives every register its reset value, whatever access it abandons, and keeps the
constant configuration; `State.reset` holds the same values. R190: the abandoned access gets no reply. That
the events still to come and the replies already given outlive the reset is the model's choice (log
entry 5). -/
def Obligations.ResetLoadsEveryRegister : Prop :=
  (∀ (s : State) (a : Option Access) (rest : List BusEvent), s.inputs = .reset a :: rest →
    ∃ t, step s = .next t ∧ (∀ i, (t.vreg i).len = 0 ∧ (t.vreg i).data = 0) ∧ t.tbl0 = 0 ∧
      t.tbl1.tlen = 0 ∧ t.tbl1.entry9 = 0 ∧ t.tbl1.entry10 = 0 ∧ t.cmdreg = 0 ∧ t.err = 0 ∧
      t.fault = false ∧ t.cfg = s.cfg ∧ t.inputs = rest ∧ t.replies = s.replies) ∧
  (∀ off, memRead State.reset off = 0) ∧ State.reset.cfg = Config.default

/-- The invariant holds after reset: R33's shape of the spec's tables, and a legal code. -/
def Obligations.ResetStateMeetsTheInvariant : Prop := State.reset.Inv

/-- R26, R27, R32: from every state with a well-formed configuration and a status code the core
produces, a step leaves both so; code 3 and the codes 6 to 15 are never produced. -/
def Obligations.EveryStepKeepsTheInvariant : Prop :=
  ∀ s t : State, s.Inv → step s = .next t → t.Inv

/-- R170: no trap and no stop; the machine answers a next state from every state. -/
def Obligations.EveryStepAnswersNext : Prop := ∀ s : State, ∃ t, step s = .next t

/-- R189: with no access presented the core keeps all its state. That an empty queue presents none is the
model's choice (log entry 2). -/
def Obligations.IdleCoreKeepsItsState : Prop := ∀ s : State, s.inputs = [] → step s = .next s

/-- R28, R94: a host write of a legal word to CMD stores the word, runs the decoded command on the
state so made, and is acknowledged. The queue of events is the model's choice (log entry 2). -/
def Obligations.StepRunsTheDecodedCommand : Prop :=
  ∀ (s : State) (w : Word) (rest : List BusEvent) (i : Instr),
    s.inputs = .access (.write 0x00 4 w) :: rest → decode w = .ok i →
    step s = acknowledge ⟨false, none⟩ (exec i ((s.setInputs rest).setCmdreg w))

/-- R88, R176, R177: a write of a word that does not decode is stored in CMDREG and recorded as
`IllegalCommand`, code 5, and writes no other register; no legal word reports that code. -/
def Obligations.IllegalWordsAreRecorded : Prop :=
  ∀ (s : State) (w : Word) (rest : List BusEvent),
    s.inputs = .access (.write 0x00 4 w) :: rest →
    ∃ t, step s = .next t ∧ t.cmdreg = w ∧ t.inputs = rest ∧ t.replies = s.replies ++ [⟨false, none⟩] ∧
      (legalWord w = false → t.err = 5 ∧ t.fault = true ∧ t.v = s.v ∧ t.tbl0 = s.tbl0 ∧
        t.tbl1 = s.tbl1 ∧ t.cfg = s.cfg) ∧
      (legalWord w = true → t.err ≠ 5)

/-- R62: the steps of the machine serve the presented events one at a time, in their order. -/
def Obligations.StepsServeTheQueueInOrder : Prop :=
  ∀ (es rest : List BusEvent) (s : State), s.inputs = es ++ rest →
    Sys2Proof.core.run es.length s = serveAll es (s.setInputs rest)

/-! ### The register window -/

/-- R58: what a host read of each aligned offset returns; a read has no side effect. -/
def Obligations.HostReadsReturnTheRegister : Prop :=
  ∀ (s : State) (off : BitVec 6) (rest : List BusEvent),
    s.inputs = .access (.read off 4) :: rest → off.toNat % 4 = 0 →
    ∃ value : Word,
      step s = .next ((s.setInputs rest).pushReply ⟨false, some value⟩) ∧
      (off = 0x00 → value = s.cmdreg) ∧
      (off = 0x04 → value.toNat = s.fault.toNat * 2 ^ 8 + s.err.toNat) ∧
      (off = 0x08 → value = s.tbl0) ∧
      (off = 0x0C → value.toNat =
        s.tbl1.tlen.toNat * 2 ^ 16 + s.tbl1.entry10.toNat * 2 ^ 4 + s.tbl1.entry9.toNat) ∧
      (∀ i : VIdx, off.toNat = 0x10 + 4 * i.val →
        value.toNat = (s.vreg i).len.toNat * 2 ^ 16 + (s.vreg i).data.toNat) ∧
      (0x30 ≤ off.toNat → value = 0)

/-- R59: what a host write of each aligned offset does. -/
def Obligations.HostWritesStoreTheRegister : Prop :=
  ∀ (s : State) (off : BitVec 6) (w : Word) (rest : List BusEvent),
    s.inputs = .access (.write off 4 w) :: rest → off.toNat % 4 = 0 →
    (off = 0x00 →
      step s = acknowledge ⟨false, none⟩ (execute w { s with inputs := rest, cmdreg := w })) ∧
    (off ≠ 0x00 → ∃ t, step s = .next t ∧
      t.cmdreg = s.cmdreg ∧ t.err = s.err ∧ t.cfg = s.cfg ∧ t.inputs = rest ∧
      t.replies = s.replies ++ [⟨false, none⟩] ∧
      t.fault = (if off = 0x04 ∧ w.toNat / 2 ^ 8 % 2 = 1 then false else s.fault) ∧
      t.tbl0 = (if off = 0x08 then w else s.tbl0) ∧
      (off ≠ 0x0C → t.tbl1 = s.tbl1) ∧
      (off = 0x0C → t.tbl1.word = w &&& (0x000F00FF : Word)) ∧
      (∀ i : VIdx, off.toNat ≠ 0x10 + 4 * i.val → t.vreg i = s.vreg i) ∧
      (∀ i : VIdx, off.toNat = 0x10 + 4 * i.val →
        (t.vreg i).len.toNat = w.toNat / 2 ^ 16 % 2 ^ 4 ∧ (t.vreg i).data.toNat = w.toNat % 2 ^ 10))

/-- R55: a misaligned access, or one of a size other than 32 bits, ends with a bus error; it changes no
state, STATUS included, and a read of it returns 0. -/
def Obligations.MisalignedAccessHasNoEffect : Prop :=
  ∀ (s : State) (off : BitVec 6) (size : Nat) (w : Word) (rest : List BusEvent),
    off.toNat % 4 ≠ 0 ∨ size ≠ 4 →
    (s.inputs = .access (.read off size) :: rest →
      step s = .next { s with inputs := rest, replies := s.replies ++ [⟨true, some 0⟩] }) ∧
    (s.inputs = .access (.write off size w) :: rest →
      step s = .next { s with inputs := rest, replies := s.replies ++ [⟨true, none⟩] })

/-- R57, R58, R59: after a write of any register but CMD and STATUS a read of its offset gives the
written word less its reserved bits, and a read of every other register gives what it gave before. -/
def Obligations.WritesReadBackMasked : Prop :=
  ∀ (s t : State) (off off' : BitVec 6) (w : Word),
    windowReg off ≠ .cmd → windowReg off ≠ .status → serve (.write off 4 w) s = .next t →
    off.toNat % 4 = 0 →
    memRead t off = w &&& keptBits (windowReg off) ∧
    (windowReg off' ≠ windowReg off → memRead t off' = memRead s off')

/-- R60: reads have no side effect, writes of every register but CMD are idempotent, and a CMD write is
not idempotent in general (`rotl v0, v0, 1`). -/
def Obligations.AccessesAreIdempotentExceptCommands : Prop :=
  (∀ (s t : State) (off : BitVec 6) (size : Nat), serve (.read off size) s = .next t →
    { t with replies := s.replies } = s) ∧
  (∀ (s t u : State) (off : BitVec 6) (w : Word), windowReg off ≠ .cmd →
    serve (.write off 4 w) s = .next t → serve (.write off 4 w) t = .next u →
    { u with replies := t.replies } = t) ∧
  (∃ s t u : State, serve (.write 0x00 4 0x00100004) s = .next t ∧
    serve (.write 0x00 4 0x00100004) t = .next u ∧ u.v ≠ t.v)

/-- R188, R197: two states that show the same sixteen register words have the same registers. -/
def Obligations.WindowShowsEveryRegister : Prop :=
  ∀ s t : State, (observe s).registers = (observe t).registers →
    s.v = t.v ∧ s.tbl0 = t.tbl0 ∧ s.tbl1 = t.tbl1 ∧ s.cmdreg = t.cmdreg ∧ s.err = t.err ∧
    s.fault = t.fault

/-! ### STATUS -/

/-- R26: the writers of STATUS, over every step: a command, a host write of STATUS with bit 8 set, and
reset; nothing else writes it. -/
def Obligations.OnlyTheseStepsWriteStatus : Prop :=
  ∀ s t : State, step s = .next t →
    (∀ w rest, s.inputs = .access (.write 0x00 4 w) :: rest →
      (t.err = 0 ∧ t.fault = s.fault) ∨ (t.err ≠ 0 ∧ t.fault = true)) ∧
    (∀ w rest, s.inputs = .access (.write 0x04 4 w) :: rest →
      t.err = s.err ∧ t.fault = (if w.toNat / 2 ^ 8 % 2 = 1 then false else s.fault)) ∧
    (∀ a rest, s.inputs = .reset a :: rest → t.err = 0 ∧ t.fault = false) ∧
    ((∀ w rest, s.inputs ≠ .access (.write 0x00 4 w) :: rest) →
     (∀ w rest, s.inputs ≠ .access (.write 0x04 4 w) :: rest) →
     (∀ a rest, s.inputs ≠ .reset a :: rest) → t.err = s.err ∧ t.fault = s.fault)

/-- R178: after a sequence of command words, written from a state with FAULT = 0, FAULT = 0 exactly when
no command of it failed: every one of them left ERR = 0. -/
def Obligations.FaultRecordsAnyFailureOfARun : Prop :=
  ∀ (ws : List Word) (s : State), s.fault = false →
    (EndsClean (serveAll (ws.map cmdWrite) s) ↔
      ∀ n, n < ws.length → ∃ t, serveAll ((ws.take (n + 1)).map cmdWrite) s = .next t ∧ t.err = 0)

/-- R40: no command reads ERR, FAULT or CMDREG: states that agree on the vector registers, the user table
and the configuration get the same registers and the same ERR, and FAULT is kept or set by that ERR
alone. -/
def Obligations.CommandsIgnoreTheStatus : Prop :=
  ∀ (i : Instr) (s s' t t' : State), s.v = s'.v → s.tbl0 = s'.tbl0 → s.tbl1 = s'.tbl1 →
    s.cfg = s'.cfg → exec i s = .next t → exec i s' = .next t' →
    t.v = t'.v ∧ t.err = t'.err ∧ (t.err = 0 → t.fault = s.fault) ∧ (t.err ≠ 0 → t.fault = true)

/-- R179, R177: a command word reports the first error in R179's order: first the decoding's, then the
lengths' alone; a failure sets FAULT and changes nothing else, and a success keeps FAULT. What `exec` does with a
`split` or `keygen` of equal destinations, which no word decodes to, is the model's choice (log entry 9). -/
def Obligations.EveryCommandReportsItsFirstError : Prop :=
  (∀ (i : Instr) (s : State), s.cfg.WellFormed →
    ∃ t, exec i s = .next t ∧ t.err = reportedCode i s ∧
      (reportedCode i s ≠ 0 → t.fault = true ∧ OnlyWrites [] s t) ∧
      (reportedCode i s = 0 → t.fault = s.fault)) ∧
  (∀ (w : Word) (s : State), s.cfg.WellFormed →
    ∃ t, execute w s = .next t ∧ (legalWord w = false → t.err = 5) ∧
      (∀ i, decode w = .ok i → t.err = reportedCode i s))

/-! ### Vector registers -/

/-- R22: the vector a register holds: an illegal LEN raises `ShapeViolation`; a legal one gives LEN
elements, element j at `DATA[n-1-j]`, whose value is DATA below LEN; the bits above LEN take no part. -/
def Obligations.RegistersReadAsVectors : Prop :=
  ∀ (s : State) (i : VIdx),
    (10 < lenOf s i → vec s i = .error .shapeViolation) ∧
    (lenOf s i ≤ 10 → ∃ x, vec s i = .ok x ∧ x.length = lenOf s i ∧
      (∀ j, j < lenOf s i → x[j]? = some ((s.vreg i).data.getLsbD (lenOf s i - 1 - j))) ∧
      val x = (s.vreg i).data.toNat % 2 ^ lenOf s i) ∧
    (∀ s' : State, sameVector (s.vreg i) (s'.vreg i) → vec s i = vec s' i)

/-- R22, R59: registers that differ only above LEN are interchangeable for every command: it reports the
same code and leaves the same vectors. -/
def Obligations.BitsAboveLenTakeNoPart : Prop :=
  ∀ (i : Instr) (s s' t t' : State), (∀ j, sameVector (s.vreg j) (s'.vreg j)) →
    s.tbl0 = s'.tbl0 → s.tbl1 = s'.tbl1 → s.cfg = s'.cfg →
    exec i s = .next t → exec i s' = .next t' →
    t.err = t'.err ∧ ∀ j, vec t j = vec t' j

/-- R23: what a command writes is a vector of at most 10 elements with `DATA[9:n] = 0`. -/
def Obligations.CommandsWriteCanonicalRegisters : Prop :=
  ∀ (i : Instr) (s t : State), s.cfg.WellFormed → exec i s = .next t → t.err = 0 →
    ∀ d ∈ destsOf i, (t.vreg d).Canonical

/-- The frame of every command (R84, R177, R178): nothing but its destinations and STATUS changes. -/
def Obligations.CommandsWriteOnlyTheirDestinations : Prop :=
  ∀ (i : Instr) (s t : State), exec i s = .next t → OnlyWrites (destsOf i) s t

/-- R20, R32: the configuration is constant: no step changes it. -/
def Obligations.ConfigurationNeverChanges : Prop :=
  ∀ s t : State, step s = .next t → t.cfg = s.cfg

/-! ### Decoding and encoding -/

/-- Words written out from the field tables of 30_encoding.md (R81, R83, R86), one for each family, decode
to the commands they stand for. -/
def Obligations.WrittenOutWordsDecode : Prop :=
  decode 0b00000000000000000000000000000000 = .ok .nop ∧
  decode 0b00000000010000000000000000010001 = .ok (.permuteP10 1 0) ∧
  decode 0b00000000011100000000010101100001 = .ok (.permuteTbl 6 5) ∧
  decode 0b00000000000000000010000100110010 = .ok (.xor 3 1 2) ∧
  decode 0b00000000000000110000000100100011 = .ok (.split 2 3 1) ∧
  decode 0b00000000101000000000001000110100 = .ok (.rotl 3 2 10) ∧
  decode 0b00000000000100000000000000010110 = .ok (.sboxS1 1 0) ∧
  decode 0b00000000000001110000000001100111 = .ok (.keygen 6 7 0) ∧
  decode 0b00000000000000000110010001011000 = .ok (.round 5 4 6) ∧
  decode 0b00000000000000000001001000111010 = .ok (.decrypt 3 2 1)

/-- R89: decoding is total with two outcomes, and the legal words are exactly those of its list. -/
def Obligations.LegalWordsAreExactlyTheListed : Prop :=
  ∀ w : Word, (legalWord w = true ↔ ∃ i, decode w = .ok i) ∧
    (legalWord w = false ↔ ∃ e, decode w = .error e)

/-- Decoding the word of a well-formed command gives the command back, with every operand. -/
def Obligations.DecodeOfEncodeIsTheCommand : Prop :=
  ∀ i : Instr, i.wf = true → decode (encode i) = .ok i

/-- What decodes is well formed, and its word is the given one with the unused fields cleared (R84, R90:
"The assembler writes 0 in every field the command does not use"). -/
def Obligations.EncodeOfDecodeClearsUnusedFields : Prop :=
  ∀ (w : Word) (i : Instr), decode w = .ok i → i.wf = true ∧ encode i = w &&& usedMask i

/-- R84: a field a command does not use may hold any value and has no effect. -/
def Obligations.UnusedFieldsAreIgnored : Prop :=
  ∀ (w w' : Word) (i : Instr), decode w = .ok i → w &&& usedMask i = w' &&& usedMask i →
    decode w' = .ok i

/-- opcode_table.json: a word that decodes belongs to its command's row, and no word belongs to two
rows. -/
def Obligations.OpcodeRowsAreDisjoint : Prop :=
  (∀ (w : Word) (i : Instr), decode w = .ok i → w &&& i.row.mask = i.row.pattern) ∧
  (∀ (w : Word) (i j : Instr), w &&& i.row.mask = i.row.pattern →
    w &&& j.row.mask = j.row.pattern → i.row = j.row)

/-- R92: the encoding equation, `RSV` being 0. -/
def Obligations.EncodingEquation : Prop :=
  ∀ i : Instr, (encode i).toNat =
    i.fields.imm.toNat * 2 ^ 20 + i.fields.rd2.toNat * 2 ^ 16 + i.fields.rs2.toNat * 2 ^ 12 +
    i.fields.rs1.toNat * 2 ^ 8 + i.fields.rd.toNat * 2 ^ 4 + i.fields.op.toNat

/-- R90: the line of a command assembles to that command; a line is its words (the model's choice, log
entry 11). -/
def Obligations.AssemblerReadsEveryLine : Prop := ∀ i : Instr, assemble (asmLine i) = some i

/-- R91: what the pseudo-instructions do once expanded: `mov` copies, `zero` writes zeros of the source's
length, `swap` exchanges the halves, and `ip` and `ipinv` are the `permute` commands. -/
def Obligations.PseudoInstructionsDoWhatTheyName : Prop :=
  ∀ (s : State) (d a : VIdx) (x : Bits), vec s a = .ok x →
    (∃ i, (Pseudo.mov d a).expand = some i ∧ Succeeds i s [(d, x)]) ∧
    (∃ i, (Pseudo.zero d a).expand = some i ∧ Succeeds i s [(d, List.replicate x.length false)]) ∧
    (x.length % 2 = 0 → ∃ i, (Pseudo.swap d a x.length).expand = some i ∧
      Succeeds i s [(d, x.drop (x.length / 2) ++ x.take (x.length / 2))]) ∧
    (Pseudo.ip d a).expand = some (.permuteIp d a) ∧
    (Pseudo.ipinv d a).expand = some (.permuteIpinv d a)

/-! ### The commands -/

/-- R160: `nop` sets ERR to 0 and changes nothing else; every word with OP = 0 and RSV = 0 is one, and
with another RSV it is illegal. -/
def Obligations.NopOnlyClearsErr : Prop :=
  (∀ s : State, exec .nop s = .next { s with err := 0 }) ∧
  (∀ s : State, Succeeds .nop s []) ∧
  (∀ w : Word, opField w = 0 → rsvField w = 0 → decode w = .ok .nop) ∧
  (∀ w : Word, opField w = 0 → rsvField w ≠ 0 → Illegal w)

/-- R101 (with R31 and R100): `permute` with each of the six fixed tables and with the user table. -/
def Obligations.PermuteRearrangesByItsTable : Prop :=
  UnaryWords 1 (· = 0) .permuteIp ∧ UnaryWords 1 (· = 1) .permuteIpinv ∧
  UnaryWords 1 (· = 2) .permuteEp ∧ UnaryWords 1 (· = 3) .permuteP4 ∧
  UnaryWords 1 (· = 4) .permuteP10 ∧ UnaryWords 1 (· = 5) .permuteP8 ∧
  UnaryWords 1 (· = 7) .permuteTbl ∧ ReservedImm 1 (fun v => v = 6 ∨ 8 ≤ v.toNat) ∧
  ∀ s : State, s.cfg.WellFormed →
    PermutesBy .permuteIp (·.cfg.tables.ip) s ∧ PermutesBy .permuteIpinv (·.cfg.tables.ipinv) s ∧
    PermutesBy .permuteEp (·.cfg.tables.ep) s ∧ PermutesBy .permuteP4 (·.cfg.tables.p4) s ∧
    PermutesBy .permuteP10 (·.cfg.tables.p10) s ∧ PermutesBy .permuteP8 (·.cfg.tables.p8) s ∧
    (10 < s.tbl1.tlen.toNat → ∀ d a, FailsWith (.permuteTbl d a) s 4) ∧
    (s.tbl1.tlen.toNat ≤ 10 → PermutesBy .permuteTbl tableEntries s)

/-- R103 (with R102): `split` writes the first and the second half; an odd length, or an illegal LEN,
raises `ShapeViolation`. -/
def Obligations.SplitWritesBothHalves : Prop :=
  PairWords 3 .split ∧
  ∀ (s : State) (d d2 a : VIdx), d ≠ d2 →
    (10 < lenOf s a → FailsWith (.split d d2 a) s 4) ∧
    (∀ x, vec s a = .ok x →
      (x.length % 2 = 1 → FailsWith (.split d d2 a) s 4) ∧
      (x.length % 2 = 0 → ∃ y z, x = y ++ z ∧ y.length = z.length ∧
        Succeeds (.split d d2 a) s [(d, y), (d2, z)]))

/-- R105 (with R104): `rotl` moves element `k` to position 0; an amount above the length raises
`ShapeViolation`, and the amounts 0 and the length are the identity. -/
def Obligations.RotlRotatesByItsAmount : Prop :=
  (∀ n : Fin 16, UnaryWords 4 (fun v => v.toNat = n.val) (fun d a => .rotl d a n)) ∧
  ∀ (s : State) (d a : VIdx) (n : Fin 16),
    (10 < lenOf s a → FailsWith (.rotl d a n) s 4) ∧
    (∀ x, vec s a = .ok x →
      (x.length < n.val → FailsWith (.rotl d a n) s 4) ∧
      (n.val ≤ x.length → ∃ y, y.length = x.length ∧
        (∀ j, j < x.length → y[j]? = x[(j + n.val) % x.length]?) ∧
        (n.val = 0 ∨ n.val = x.length → y = x) ∧ Succeeds (.rotl d a n) s [(d, y)]))

/-- R107 (with R106): `xor` element by element; unequal lengths raise `LengthMismatch`. -/
def Obligations.XorMixesElementwise : Prop :=
  BinaryWords 2 .xor ∧
  ∀ (s : State) (d a b : VIdx),
    (10 < lenOf s a ∨ 10 < lenOf s b → FailsWith (.xor d a b) s 4) ∧
    (∀ x y, vec s a = .ok x → vec s b = .ok y →
      (x.length ≠ y.length → FailsWith (.xor d a b) s 2) ∧
      (x.length = y.length → ∃ z, z.length = x.length ∧
        (∀ j, j < x.length → z.getD j false = (x.getD j false != y.getD j false)) ∧
        Succeeds (.xor d a b) s [(d, z)]))

/-- R108: `concat` writes `a ++ b`; more than 10 elements raise `ShapeViolation`. -/
def Obligations.ConcatJoinsItsSources : Prop :=
  BinaryWords 5 .concat ∧
  ∀ (s : State) (d a b : VIdx),
    (10 < lenOf s a ∨ 10 < lenOf s b → FailsWith (.concat d a b) s 4) ∧
    (∀ x y, vec s a = .ok x → vec s b = .ok y →
      (10 < x.length + y.length → FailsWith (.concat d a b) s 4) ∧
      (x.length + y.length ≤ 10 → Succeeds (.concat d a b) s [(d, x ++ y)]))

/-- R121 (with R120): `sbox` with S0 and with S1, the box read as the ROM of R122; a length other than 4
raises `ShapeViolation`, and IMM 2 to 15 are illegal. -/
def Obligations.SboxLooksUpItsBox : Prop :=
  UnaryWords 6 (· = 0) .sboxS0 ∧ UnaryWords 6 (· = 1) .sboxS1 ∧ ReservedImm 6 (fun v => 2 ≤ v.toNat) ∧
  ∀ (s : State) (d a : VIdx),
    (10 < lenOf s a → FailsWith (.sboxS0 d a) s 4 ∧ FailsWith (.sboxS1 d a) s 4) ∧
    (∀ x, vec s a = .ok x →
      (x.length ≠ 4 → FailsWith (.sboxS0 d a) s 4 ∧ FailsWith (.sboxS1 d a) s 4) ∧
      (x.length = 4 → Succeeds (.sboxS0 d a) s [(d, boxBits s.cfg.tables.s0 x)] ∧
        Succeeds (.sboxS1 d a) s [(d, boxBits s.cfg.tables.s1 x)]))

/-- R131 (with R130): `keygen` writes the subkeys of the net rotations 1 and 3; a key of length other
than 10 raises `ShapeViolation`. -/
def Obligations.KeygenWritesBothSubkeys : Prop :=
  PairWords 7 .keygen ∧
  ∀ (s : State) (d d2 a : VIdx), s.cfg.WellFormed → d ≠ d2 →
    (10 < lenOf s a → FailsWith (.keygen d d2 a) s 4) ∧
    (∀ k, vec s a = .ok k →
      (k.length ≠ 10 → FailsWith (.keygen d d2 a) s 4) ∧
      (k.length = 10 → Succeeds (.keygen d d2 a) s
        [(d, subkeyOf s.cfg.tables 1 k), (d2, subkeyOf s.cfg.tables 3 k)]))

/-- R141 (with R140): `round`; a half of length other than 4 raises `ShapeViolation`, and then a subkey
of length other than 8 raises `LengthMismatch`. -/
def Obligations.RoundComputesTheRoundFunction : Prop :=
  BinaryWords 8 .round ∧
  ∀ (s : State) (d a b : VIdx), s.cfg.WellFormed →
    (10 < lenOf s a ∨ 10 < lenOf s b → FailsWith (.round d a b) s 4) ∧
    (∀ r k, vec s a = .ok r → vec s b = .ok k →
      (r.length ≠ 4 → FailsWith (.round d a b) s 4) ∧
      (r.length = 4 → k.length ≠ 8 → FailsWith (.round d a b) s 2) ∧
      (r.length = 4 → k.length = 8 →
        Succeeds (.round d a b) s [(d, roundOf s.cfg.tables r k)]))

/-- R153 (with R150 and R151): `encrypt` computes the reference cipher, under either half order; and the
two-round structure of R150, on an 8-element block and any two 8-element subkeys, is the reference one. -/
def Obligations.EncryptComputesTheCipher : Prop :=
  BinaryWords 9 .encrypt ∧ Ciphers .encrypt encryptOf ∧
  ∀ (c : Config) (x ka kb : Bits), c.WellFormed → x.length = 8 → ka.length = 8 → kb.length = 8 →
    feistel c x ka kb = .ok (feistelOf c x ka kb)

/-- R154 (with R150 and R152): `decrypt` computes the reference cipher with the subkeys swapped. -/
def Obligations.DecryptComputesTheCipher : Prop :=
  BinaryWords 10 .decrypt ∧ Ciphers .decrypt decryptOf

/-! ### Laws of the cipher -/

/-- R155: with the spec's half order the two operations are each other's inverse, for every configuration
that meets R33, whatever its S-boxes, EP, P4, P10 and P8. -/
def Obligations.DecryptInvertsEncrypt : Prop :=
  ∀ (c : Config) (x k : Bits), c.WellFormed → c.finalHalfOrder = .r2l2 → x.length = 8 →
    k.length = 10 →
    (∃ y, encrypt c x k = .ok y ∧ y.length = 8 ∧ decrypt c y k = .ok x) ∧
    (∃ y, decrypt c x k = .ok y ∧ y.length = 8 ∧ encrypt c y k = .ok x)

/-- 95_test_vectors.md program 1: two commands, `encrypt` then `decrypt` with the same key register,
bring the block back, and neither fails. -/
def Obligations.EncryptThenDecryptCommandsRestoreTheBlock : Prop :=
  ∀ (s : State) (d d2 p k : VIdx) (x key : Bits), s.cfg.WellFormed → s.cfg.finalHalfOrder = .r2l2 →
    vec s p = .ok x → x.length = 8 → vec s k = .ok key → key.length = 10 → d ≠ k →
    ∃ t u, exec (.encrypt d p k) s = .next t ∧ exec (.decrypt d2 d k) t = .next u ∧
      vec u d2 = .ok x ∧ u.err = 0 ∧ u.fault = s.fault

/-- 90_conflicts.md C1: with the literal order `L2 ++ R2` the inverse property fails (row EN1). -/
def Obligations.LiteralOrderIsNoInverse : Prop :=
  ∃ x k y z : Bits, x.length = 8 ∧ k.length = 10 ∧
    encrypt ⟨Tables.standard, .l2r2⟩ x k = .ok y ∧ decrypt ⟨Tables.standard, .l2r2⟩ y k = .ok z ∧
    z ≠ x

/-- 95_test_vectors.md program 2: the key schedule composed from primitives gives the subkeys that
`keygen` gives, for every key and every configuration that meets R33. -/
def Obligations.KeyScheduleFromPrimitives : Prop :=
  ∀ (s : State) (k : Bits), s.cfg.WellFormed → vec s 0 = .ok k → k.length = 10 →
    ∃ t u, execAll keyScheduleProgram s = .next t ∧ exec (.keygen 6 7 0) t = .next u ∧
      u.vreg 4 = u.vreg 6 ∧ u.vreg 5 = u.vreg 7 ∧ u.err = 0 ∧ u.fault = s.fault

/-- 95_test_vectors.md program 3: encryption composed from primitives gives what `encrypt` gives, with
the spec's half order and every table set that meets R33. -/
def Obligations.EncryptionFromPrimitives : Prop :=
  ∀ (s : State) (p k : Bits), s.cfg.WellFormed → s.cfg.finalHalfOrder = .r2l2 →
    vec s 0 = .ok p → p.length = 8 → vec s 1 = .ok k → k.length = 10 →
    ∃ t u, execAll encryptProgram s = .next t ∧ exec (.encrypt 4 0 1) t = .next u ∧
      u.vreg 2 = u.vreg 4 ∧ u.err = 0 ∧ u.fault = s.fault

/-- R133: the subkeys as wiring, under the spec's tables. -/
def Obligations.StandardKeyScheduleIsWiring : Prop :=
  ∀ k1 k2 k3 k4 k5 k6 k7 k8 k9 k10 : Bool,
    generateSubkeys Tables.standard [k1, k2, k3, k4, k5, k6, k7, k8, k9, k10] =
      .ok ([k1, k7, k9, k4, k8, k3, k10, k6], [k8, k3, k6, k5, k10, k2, k9, k1])

/-- R33: a core is built exactly of the configurations whose tables have the listed shapes (the S-box row
holds by type) and whose IP⁻¹ inverts IP, in both orders, on every 8-element vector; another one is
refused. -/
def Obligations.OnlyWellFormedTablesAreAccepted : Prop :=
  ∀ c : Config,
    let t := c.tables
    let Meets := t.ip.Shape 8 8 ∧ t.ipinv.Shape 8 8 ∧ t.ep.Shape 8 4 ∧ t.p4.Shape 4 4 ∧
      t.p10.Shape 10 10 ∧ t.p8.Shape 8 10 ∧
      ∀ x : Bits, x.length = 8 →
        (permute x t.ip >>= fun y => permute y t.ipinv) = .ok x ∧
        (permute x t.ipinv >>= fun y => permute y t.ip) = .ok x
    (Meets → c.WellFormed ∧ State.resetWith? c = some (State.resetOf c)) ∧
    (¬ Meets → ¬ c.WellFormed ∧ State.resetWith? c = none)

/-- R109: the laws of the primitives. -/
def Obligations.BitVectorLaws : Prop :=
  (∀ x : Bits, permute x ((List.range x.length).map (· + 1)) = .ok x) ∧
  (∀ (x : Bits) (a b : Nat), a ≤ x.length → b ≤ x.length → 0 < x.length →
    (rotateLeft x a >>= fun y => rotateLeft y b) = rotateLeft x ((a + b) % x.length)) ∧
  (∀ a b : Bits, a.length = b.length → (xorBits a b >>= fun y => xorBits y b) = .ok a) ∧
  (∀ x a b : Bits, splitHalf x = .ok (a, b) → a ++ b = x)

/-! ### The host's side -/

/-- R71, R72, R73: the candidates are the 10-element vectors of the values 0 to 1023, and the consumer
reports the least of them that passes both checks, or "not found" when none does. -/
def Obligations.SearchReportsTheLeastMatch : Prop :=
  (∀ k, k < 1024 → (bitsOf 10 k).length = 10 ∧ val (bitsOf 10 k) = k) ∧
  ∀ (c : Config) (p x : Bits),
    let Matches := fun k => decrypt c x (bitsOf 10 k) = .ok p ∧ encrypt c p (bitsOf 10 k) = .ok x
    (∀ k, search c p x = some k ↔ k < 1024 ∧ Matches k ∧ ∀ j, j < k → ¬ Matches j) ∧
    (search c p x = none ↔ ∀ k, k < 1024 → ¬ Matches k)

/-- R75: whatever the partition, the parallel search reports the key of R73; and the collect-all policy
reports every matching key. -/
def Obligations.ParallelSearchReportsTheSameKey : Prop :=
  ∀ (c : Config) (p x : Bits),
    (∀ parts : List (List Nat), (∀ k, (∃ part ∈ parts, k ∈ part) ↔ k < 1024) →
      parallelSearch c p x parts = search c p x) ∧
    (∀ k, k ∈ collectAll c p x ↔ k < 1024 ∧ isMatch c p x k = true)

/-- 95_test_vectors.md program 5 against R73: the loop of bus accesses on the core, from any state, ends
with the key that the search function reports. -/
def Obligations.DriverReportsTheSearchResult : Prop :=
  ∀ (s : State) (p x : Bits), s.cfg.WellFormed → p.length = 8 → x.length = 8 →
    driver p x s = search s.cfg p x

/-- "Under `R2_L2` the two checks always agree" (95_test_vectors.md, from R155): either check alone finds
the matching keys. -/
def Obligations.TheTwoChecksAgree : Prop :=
  ∀ (c : Config) (p x : Bits) (k : Nat), c.WellFormed → c.finalHalfOrder = .r2l2 → p.length = 8 →
    x.length = 8 →
    (decrypt c x (candidate k) = .ok p ↔ encrypt c p (candidate k) = .ok x)

/-- R74: a string of '0' and '1' converts one character per element, any other character is
`InvalidBitValue`, and loading the parsed vector by a host write makes the register hold it. R74 names
strings of 8 and of 10 characters; that one of any other length is parsed too is the model's choice (log
entry 11). -/
def Obligations.TextLoadsAsAVector : Prop :=
  (∀ cs : List Char, (∃ ch ∈ cs, ch ≠ '0' ∧ ch ≠ '1') → parseBits cs = .error .invalidBitValue) ∧
  (∀ cs : List Char, (∀ ch ∈ cs, ch = '0' ∨ ch = '1') →
    ∃ x, parseBits cs = .ok x ∧ x.length = cs.length ∧ renderBits x = cs ∧
      ∀ j, j < cs.length → x.getD j false = decide (cs.getD j '0' = '1')) ∧
  (∀ (s : State) (i : VIdx) (x : Bits) (off : BitVec 6) (w : Word), x.length ≤ 10 →
    off.toNat = 0x10 + 4 * i.val → w.toNat = x.length * 2 ^ 16 + val x →
    ldEvent i x = .access (.write off 4 w) ∧
    ∃ t, serveEvent (.access (.write off 4 w)) s = .next t ∧ vec t i = .ok x ∧ t.err = s.err)

/-- R51, R56: an address in the 64 bytes from `BASE` has the offset of its distance and no other address
has one; whatever the byte order, the bytes a host writes are the bytes it reads back. -/
def Obligations.PlatformMapsAddressesAndBytes : Prop :=
  (∀ base addr : Nat, (base ≤ addr → addr < base + 64 →
      ∃ off, offsetOf base addr = some off ∧ off.toNat = addr - base) ∧
    (addr < base ∨ base + 64 ≤ addr → offsetOf base addr = none)) ∧
  (∀ (lanes : Vector (Fin 4) 4) (b : Vector (BitVec 8) 4), lanes.toList.Nodup →
    ∀ j : Fin 4, hostByte lanes (wordOfBytes lanes b) j = b[j])
end

