-- ==== Sys2Proof/Laws/Decode.lean ====
section
/-!
SUPPORT. The fields of a built command word (30_encoding.md R81), and what each operand decoder answers.
-/

namespace Sys2Proof

/-! ### The fields of a built word -/

section Fields

variable (f : CmdFields)

@[simp] theorem CmdFields.word_op : opField f.word = f.op := by
  ext k hk
  simp [opField, CmdFields.word]
  interval_cases k <;> simp

@[simp] theorem CmdFields.word_rd : rdField f.word = f.rd := by
  ext k hk
  simp [rdField, CmdFields.word]
  interval_cases k <;> simp

@[simp] theorem CmdFields.word_rs1 : rs1Field f.word = f.rs1 := by
  ext k hk
  simp [rs1Field, CmdFields.word]
  interval_cases k <;> simp [BitVec.getLsbD_of_ge]

@[simp] theorem CmdFields.word_rs2 : rs2Field f.word = f.rs2 := by
  ext k hk
  simp [rs2Field, CmdFields.word]
  interval_cases k <;> simp [BitVec.getLsbD_of_ge]

@[simp] theorem CmdFields.word_rd2 : rd2Field f.word = f.rd2 := by
  ext k hk
  simp [rd2Field, CmdFields.word]
  interval_cases k <;> simp [BitVec.getLsbD_of_ge]

@[simp] theorem CmdFields.word_imm : immField f.word = f.imm := by
  ext k hk
  simp [immField, CmdFields.word]
  interval_cases k <;> simp [BitVec.getLsbD_of_ge]

@[simp] theorem CmdFields.word_rsv : rsvField f.word = 0 := by
  ext k hk
  simp [rsvField, CmdFields.word]
  interval_cases k <;> simp [BitVec.getLsbD_of_ge]

end Fields

/-! ### Register fields and operand decoders -/

@[simp] theorem regOf_regField (i : VIdx) : regOf (regField i) = .ok i := by
  revert i; decide

theorem regOf_ok {b : BitVec 4} {i : VIdx} (h : b.toNat = i.val) : regOf b = .ok i := by
  have hi := i.isLt
  rw [regOf, dif_pos (by omega)]
  exact congrArg Except.ok (Fin.ext h)

theorem regOf_error {b : BitVec 4} (h : 7 < b.toNat) : regOf b = .error .registerField :=
  dif_neg (by omega)

/-- A register number read from a field is that field (R85). -/
theorem regOf_inv {b : BitVec 4} {i : VIdx} (h : regOf b = .ok i) : b.toNat = i.val := by
  unfold regOf at h
  split at h
  · cases h; rfl
  · cases h

theorem decodeUnary_inv {mk : VIdx → VIdx → Instr} {w : Word} {i : Instr}
    (h : decodeUnary mk w = .ok i) : ∃ d a : VIdx, i = mk d a ∧ (rdField w).toNat = d.val ∧
      (rs1Field w).toNat = a.val := by
  simp only [decodeUnary, bind, Except.bind, pure, Except.pure] at h
  cases hd : regOf (rdField w) <;> cases ha : regOf (rs1Field w) <;> simp only [hd, ha] at h <;> cases h
  exact ⟨_, _, rfl, regOf_inv hd, regOf_inv ha⟩

theorem decodeBinary_inv {mk : VIdx → VIdx → VIdx → Instr} {w : Word} {i : Instr}
    (h : decodeBinary mk w = .ok i) : ∃ d a b : VIdx, i = mk d a b ∧ (rdField w).toNat = d.val ∧
      (rs1Field w).toNat = a.val ∧ (rs2Field w).toNat = b.val := by
  simp only [decodeBinary, bind, Except.bind, pure, Except.pure] at h
  cases hd : regOf (rdField w) <;> cases ha : regOf (rs1Field w) <;> cases hb : regOf (rs2Field w) <;>
    simp only [hd, ha, hb] at h <;> cases h
  exact ⟨_, _, _, rfl, regOf_inv hd, regOf_inv ha, regOf_inv hb⟩

theorem decodePair_inv {mk : VIdx → VIdx → VIdx → Instr} {w : Word} {i : Instr}
    (h : decodePair mk w = .ok i) : ∃ d d2 a : VIdx, i = mk d d2 a ∧ d ≠ d2 ∧
      (rdField w).toNat = d.val ∧ (rd2Field w).toNat = d2.val ∧ (rs1Field w).toNat = a.val := by
  simp only [decodePair, bind, Except.bind, pure, Except.pure] at h
  cases hd : regOf (rdField w) <;> cases hd2 : regOf (rd2Field w) <;> cases ha : regOf (rs1Field w) <;>
    simp only [hd, hd2, ha] at h <;> try cases h
  split at h
  · cases h
  · cases h
    exact ⟨_, _, _, rfl, ‹_›, regOf_inv hd, regOf_inv hd2, regOf_inv ha⟩

end Sys2Proof
end

