-- ==== Sys2Proof/Laws/State.lean ====
section
/-!
SUPPORT. One lemma for each field of State under each update, and the register read under each of them.
-/

namespace Sys2Proof.Machine

variable (s : State)

/-! ### setVReg -/

@[simp] theorem State.setVReg_cfg (i : VIdx) (r : VReg) : (s.setVReg i r).cfg = s.cfg := rfl
@[simp] theorem State.setVReg_v (i : VIdx) (r : VReg) : (s.setVReg i r).v = s.v.set i r := rfl
@[simp] theorem State.setVReg_tbl0 (i : VIdx) (r : VReg) : (s.setVReg i r).tbl0 = s.tbl0 := rfl
@[simp] theorem State.setVReg_tbl1 (i : VIdx) (r : VReg) : (s.setVReg i r).tbl1 = s.tbl1 := rfl
@[simp] theorem State.setVReg_cmdreg (i : VIdx) (r : VReg) : (s.setVReg i r).cmdreg = s.cmdreg := rfl
@[simp] theorem State.setVReg_err (i : VIdx) (r : VReg) : (s.setVReg i r).err = s.err := rfl
@[simp] theorem State.setVReg_fault (i : VIdx) (r : VReg) : (s.setVReg i r).fault = s.fault := rfl
@[simp] theorem State.setVReg_inputs (i : VIdx) (r : VReg) : (s.setVReg i r).inputs = s.inputs := rfl
@[simp] theorem State.setVReg_replies (i : VIdx) (r : VReg) : (s.setVReg i r).replies = s.replies := rfl

@[simp] theorem State.setVReg_vreg_same (i : VIdx) (r : VReg) : (s.setVReg i r).vreg i = r := by
  simp [State.vreg]

theorem State.setVReg_vreg_other {i j : VIdx} (r : VReg) (h : j ≠ i) :
    (s.setVReg i r).vreg j = s.vreg j := by
  simp only [State.vreg, State.setVReg_v, Fin.getElem_fin]
  exact Vector.getElem_set_ne _ _ (fun e => h (Fin.ext e.symm))

/-! ### setTbl0 -/

@[simp] theorem State.setTbl0_cfg (w : Word) : (s.setTbl0 w).cfg = s.cfg := rfl
@[simp] theorem State.setTbl0_v (w : Word) : (s.setTbl0 w).v = s.v := rfl
@[simp] theorem State.setTbl0_tbl0 (w : Word) : (s.setTbl0 w).tbl0 = w := rfl
@[simp] theorem State.setTbl0_tbl1 (w : Word) : (s.setTbl0 w).tbl1 = s.tbl1 := rfl
@[simp] theorem State.setTbl0_cmdreg (w : Word) : (s.setTbl0 w).cmdreg = s.cmdreg := rfl
@[simp] theorem State.setTbl0_err (w : Word) : (s.setTbl0 w).err = s.err := rfl
@[simp] theorem State.setTbl0_fault (w : Word) : (s.setTbl0 w).fault = s.fault := rfl
@[simp] theorem State.setTbl0_inputs (w : Word) : (s.setTbl0 w).inputs = s.inputs := rfl
@[simp] theorem State.setTbl0_replies (w : Word) : (s.setTbl0 w).replies = s.replies := rfl
@[simp] theorem State.setTbl0_vreg (w : Word) (j : VIdx) : (s.setTbl0 w).vreg j = s.vreg j := rfl

/-! ### setTbl1 -/

@[simp] theorem State.setTbl1_cfg (t : Tbl1) : (s.setTbl1 t).cfg = s.cfg := rfl
@[simp] theorem State.setTbl1_v (t : Tbl1) : (s.setTbl1 t).v = s.v := rfl
@[simp] theorem State.setTbl1_tbl0 (t : Tbl1) : (s.setTbl1 t).tbl0 = s.tbl0 := rfl
@[simp] theorem State.setTbl1_tbl1 (t : Tbl1) : (s.setTbl1 t).tbl1 = t := rfl
@[simp] theorem State.setTbl1_cmdreg (t : Tbl1) : (s.setTbl1 t).cmdreg = s.cmdreg := rfl
@[simp] theorem State.setTbl1_err (t : Tbl1) : (s.setTbl1 t).err = s.err := rfl
@[simp] theorem State.setTbl1_fault (t : Tbl1) : (s.setTbl1 t).fault = s.fault := rfl
@[simp] theorem State.setTbl1_inputs (t : Tbl1) : (s.setTbl1 t).inputs = s.inputs := rfl
@[simp] theorem State.setTbl1_replies (t : Tbl1) : (s.setTbl1 t).replies = s.replies := rfl
@[simp] theorem State.setTbl1_vreg (t : Tbl1) (j : VIdx) : (s.setTbl1 t).vreg j = s.vreg j := rfl

/-! ### setCmdreg -/

@[simp] theorem State.setCmdreg_cfg (w : Word) : (s.setCmdreg w).cfg = s.cfg := rfl
@[simp] theorem State.setCmdreg_v (w : Word) : (s.setCmdreg w).v = s.v := rfl
@[simp] theorem State.setCmdreg_tbl0 (w : Word) : (s.setCmdreg w).tbl0 = s.tbl0 := rfl
@[simp] theorem State.setCmdreg_tbl1 (w : Word) : (s.setCmdreg w).tbl1 = s.tbl1 := rfl
@[simp] theorem State.setCmdreg_cmdreg (w : Word) : (s.setCmdreg w).cmdreg = w := rfl
@[simp] theorem State.setCmdreg_err (w : Word) : (s.setCmdreg w).err = s.err := rfl
@[simp] theorem State.setCmdreg_fault (w : Word) : (s.setCmdreg w).fault = s.fault := rfl
@[simp] theorem State.setCmdreg_inputs (w : Word) : (s.setCmdreg w).inputs = s.inputs := rfl
@[simp] theorem State.setCmdreg_replies (w : Word) : (s.setCmdreg w).replies = s.replies := rfl
@[simp] theorem State.setCmdreg_vreg (w : Word) (j : VIdx) : (s.setCmdreg w).vreg j = s.vreg j := rfl

/-! ### setErr -/

@[simp] theorem State.setErr_cfg (c : BitVec 4) : (s.setErr c).cfg = s.cfg := rfl
@[simp] theorem State.setErr_v (c : BitVec 4) : (s.setErr c).v = s.v := rfl
@[simp] theorem State.setErr_tbl0 (c : BitVec 4) : (s.setErr c).tbl0 = s.tbl0 := rfl
@[simp] theorem State.setErr_tbl1 (c : BitVec 4) : (s.setErr c).tbl1 = s.tbl1 := rfl
@[simp] theorem State.setErr_cmdreg (c : BitVec 4) : (s.setErr c).cmdreg = s.cmdreg := rfl
@[simp] theorem State.setErr_err (c : BitVec 4) : (s.setErr c).err = c := rfl
@[simp] theorem State.setErr_fault (c : BitVec 4) : (s.setErr c).fault = s.fault := rfl
@[simp] theorem State.setErr_inputs (c : BitVec 4) : (s.setErr c).inputs = s.inputs := rfl
@[simp] theorem State.setErr_replies (c : BitVec 4) : (s.setErr c).replies = s.replies := rfl
@[simp] theorem State.setErr_vreg (c : BitVec 4) (j : VIdx) : (s.setErr c).vreg j = s.vreg j := rfl

/-! ### setFault -/

@[simp] theorem State.setFault_cfg (b : Bool) : (s.setFault b).cfg = s.cfg := rfl
@[simp] theorem State.setFault_v (b : Bool) : (s.setFault b).v = s.v := rfl
@[simp] theorem State.setFault_tbl0 (b : Bool) : (s.setFault b).tbl0 = s.tbl0 := rfl
@[simp] theorem State.setFault_tbl1 (b : Bool) : (s.setFault b).tbl1 = s.tbl1 := rfl
@[simp] theorem State.setFault_cmdreg (b : Bool) : (s.setFault b).cmdreg = s.cmdreg := rfl
@[simp] theorem State.setFault_err (b : Bool) : (s.setFault b).err = s.err := rfl
@[simp] theorem State.setFault_fault (b : Bool) : (s.setFault b).fault = b := rfl
@[simp] theorem State.setFault_inputs (b : Bool) : (s.setFault b).inputs = s.inputs := rfl
@[simp] theorem State.setFault_replies (b : Bool) : (s.setFault b).replies = s.replies := rfl
@[simp] theorem State.setFault_vreg (b : Bool) (j : VIdx) : (s.setFault b).vreg j = s.vreg j := rfl

/-! ### setInputs -/

@[simp] theorem State.setInputs_cfg (es : List BusEvent) : (s.setInputs es).cfg = s.cfg := rfl
@[simp] theorem State.setInputs_v (es : List BusEvent) : (s.setInputs es).v = s.v := rfl
@[simp] theorem State.setInputs_tbl0 (es : List BusEvent) : (s.setInputs es).tbl0 = s.tbl0 := rfl
@[simp] theorem State.setInputs_tbl1 (es : List BusEvent) : (s.setInputs es).tbl1 = s.tbl1 := rfl
@[simp] theorem State.setInputs_cmdreg (es : List BusEvent) : (s.setInputs es).cmdreg = s.cmdreg := rfl
@[simp] theorem State.setInputs_err (es : List BusEvent) : (s.setInputs es).err = s.err := rfl
@[simp] theorem State.setInputs_fault (es : List BusEvent) : (s.setInputs es).fault = s.fault := rfl
@[simp] theorem State.setInputs_inputs (es : List BusEvent) : (s.setInputs es).inputs = es := rfl
@[simp] theorem State.setInputs_replies (es : List BusEvent) : (s.setInputs es).replies = s.replies := rfl
@[simp] theorem State.setInputs_vreg (es : List BusEvent) (j : VIdx) : (s.setInputs es).vreg j = s.vreg j := rfl

/-! ### pushReply -/

@[simp] theorem State.pushReply_cfg (r : Reply) : (s.pushReply r).cfg = s.cfg := rfl
@[simp] theorem State.pushReply_v (r : Reply) : (s.pushReply r).v = s.v := rfl
@[simp] theorem State.pushReply_tbl0 (r : Reply) : (s.pushReply r).tbl0 = s.tbl0 := rfl
@[simp] theorem State.pushReply_tbl1 (r : Reply) : (s.pushReply r).tbl1 = s.tbl1 := rfl
@[simp] theorem State.pushReply_cmdreg (r : Reply) : (s.pushReply r).cmdreg = s.cmdreg := rfl
@[simp] theorem State.pushReply_err (r : Reply) : (s.pushReply r).err = s.err := rfl
@[simp] theorem State.pushReply_fault (r : Reply) : (s.pushReply r).fault = s.fault := rfl
@[simp] theorem State.pushReply_inputs (r : Reply) : (s.pushReply r).inputs = s.inputs := rfl
@[simp] theorem State.pushReply_replies (r : Reply) : (s.pushReply r).replies = s.replies ++ [r] := rfl
@[simp] theorem State.pushReply_vreg (r : Reply) (j : VIdx) : (s.pushReply r).vreg j = s.vreg j := rfl

end Sys2Proof.Machine
end

