-- ==== Sys2Proof/Laws/Ops.lean ====
section
/-!
SUPPORT. What each shared operation can do, said once: the recording of an outcome, the writing of the
destinations, `commit`, and the packing of a bit vector into a register and its reading back.
-/

namespace Sys2Proof.Machine

variable (s : State)

/-! ### Recording -/

@[simp] theorem State.recordFailure_err (e : Error) : (s.recordFailure e).err = e.code := rfl
@[simp] theorem State.recordFailure_fault (e : Error) : (s.recordFailure e).fault = true := rfl
@[simp] theorem State.recordFailure_v (e : Error) : (s.recordFailure e).v = s.v := rfl
@[simp] theorem State.recordFailure_vreg (e : Error) (j : VIdx) :
    (s.recordFailure e).vreg j = s.vreg j := rfl
@[simp] theorem State.recordFailure_tbl0 (e : Error) : (s.recordFailure e).tbl0 = s.tbl0 := rfl
@[simp] theorem State.recordFailure_tbl1 (e : Error) : (s.recordFailure e).tbl1 = s.tbl1 := rfl
@[simp] theorem State.recordFailure_cmdreg (e : Error) : (s.recordFailure e).cmdreg = s.cmdreg := rfl
@[simp] theorem State.recordFailure_cfg (e : Error) : (s.recordFailure e).cfg = s.cfg := rfl
@[simp] theorem State.recordFailure_inputs (e : Error) : (s.recordFailure e).inputs = s.inputs := rfl
@[simp] theorem State.recordFailure_replies (e : Error) :
    (s.recordFailure e).replies = s.replies := rfl

@[simp] theorem State.recordSuccess_err : s.recordSuccess.err = 0 := rfl
@[simp] theorem State.recordSuccess_fault : s.recordSuccess.fault = s.fault := rfl
@[simp] theorem State.recordSuccess_v : s.recordSuccess.v = s.v := rfl
@[simp] theorem State.recordSuccess_vreg (j : VIdx) : s.recordSuccess.vreg j = s.vreg j := rfl
@[simp] theorem State.recordSuccess_tbl0 : s.recordSuccess.tbl0 = s.tbl0 := rfl
@[simp] theorem State.recordSuccess_tbl1 : s.recordSuccess.tbl1 = s.tbl1 := rfl
@[simp] theorem State.recordSuccess_cmdreg : s.recordSuccess.cmdreg = s.cmdreg := rfl
@[simp] theorem State.recordSuccess_cfg : s.recordSuccess.cfg = s.cfg := rfl
@[simp] theorem State.recordSuccess_inputs : s.recordSuccess.inputs = s.inputs := rfl
@[simp] theorem State.recordSuccess_replies : s.recordSuccess.replies = s.replies := rfl

/-! ### Writing the destinations -/

@[simp] theorem State.setV_vreg_same (i : VIdx) (x : Bits) : (s.setV i x).vreg i = packBits x := by
  simp [State.setV]

theorem State.setV_vreg_other {i j : VIdx} (x : Bits) (h : j ≠ i) :
    (s.setV i x).vreg j = s.vreg j := s.setVReg_vreg_other _ h

/-- `writeAll` touches vector registers only. -/
structure SameButVRegs (s t : State) : Prop where
  tbl0    : t.tbl0 = s.tbl0
  tbl1    : t.tbl1 = s.tbl1
  cmdreg  : t.cmdreg = s.cmdreg
  err     : t.err = s.err
  fault   : t.fault = s.fault
  cfg     : t.cfg = s.cfg
  inputs  : t.inputs = s.inputs
  replies : t.replies = s.replies

theorem State.writeAll_same (ws : List (VIdx × Bits)) (s : State) :
    SameButVRegs s (s.writeAll ws) := by
  induction ws generalizing s with
  | nil => exact ⟨rfl, rfl, rfl, rfl, rfl, rfl, rfl, rfl⟩
  | cons w ws ih =>
    obtain ⟨h1, h2, h3, h4, h5, h6, h7, h8⟩ := ih (s.setV w.1 w.2)
    exact ⟨h1, h2, h3, h4, h5, h6, h7, h8⟩

/-- A register that is no destination keeps its contents. -/
theorem State.writeAll_vreg_other (ws : List (VIdx × Bits)) (s : State) {j : VIdx}
    (h : j ∉ ws.map Prod.fst) : (s.writeAll ws).vreg j = s.vreg j := by
  induction ws generalizing s with
  | nil => rfl
  | cons w ws ih =>
    simp only [List.map_cons, List.mem_cons, not_or] at h
    rw [State.writeAll, ih (s.setV w.1 w.2) h.2, State.setV_vreg_other _ _ h.1]

/-! ### commit -/

@[simp] theorem commit_ok (ws : List (VIdx × Bits)) :
    commit s (.ok ws) = .next (s.writeAll ws).recordSuccess := rfl

@[simp] theorem commit_error (e : Error) : commit s (.error e) = .next (s.recordFailure e) := rfl

/-- Everything `commit` can do: a success that writes the destinations, or a failure that writes none. -/
theorem commit_cases {s t : State} {r : Except Error (List (VIdx × Bits))} (h : commit s r = .next t) :
    (∃ ws, r = .ok ws ∧ t = (s.writeAll ws).recordSuccess) ∨
    (∃ e, r = .error e ∧ t = s.recordFailure e) := by
  cases r with
  | ok ws => exact .inl ⟨ws, rfl, by simpa [eq_comm] using h⟩
  | error e => exact .inr ⟨e, rfl, by simpa [eq_comm] using h⟩

/-- `commit` always answers a next state: the core has no trap (R170). -/
theorem commit_next (r : Except Error (List (VIdx × Bits))) : ∃ t, commit s r = .next t := by
  cases r <;> exact ⟨_, rfl⟩

/-! ### Bit vectors and registers -/

@[simp] theorem val_nil : val [] = 0 := rfl

@[simp] theorem val_cons (b : Bool) (bs : Bits) :
    val (b :: bs) = b.toNat * 2 ^ bs.length + val bs := rfl

theorem val_lt (x : Bits) : val x < 2 ^ x.length := by
  induction x with
  | nil => decide
  | cons b bs ih =>
    have hb : b.toNat ≤ 1 := Bool.toNat_le b
    rw [val_cons, List.length_cons, pow_succ]
    nlinarith [Nat.mul_le_mul_right (2 ^ bs.length) hb]

/-- Bit `n-1-j` of the value is element `j` (R10). -/
theorem val_testBit (x : Bits) (j : Nat) (h : j < x.length) :
    (val x).testBit (x.length - 1 - j) = x.getD j false := by
  induction x generalizing j with
  | nil => simp at h
  | cons b bs ih =>
    have hlt := val_lt bs
    rw [val_cons, Nat.mul_comm]
    cases j with
    | zero =>
      rw [Nat.testBit_two_pow_mul_add _ hlt]
      cases b <;> simp
    | succ j =>
      have hj : j < bs.length := by simpa using h
      rw [Nat.testBit_two_pow_mul_add _ hlt, if_pos (by simp; omega)]
      have e : bs.length - (j + 1) = bs.length - 1 - j := by omega
      simpa [e] using ih j hj

@[simp] theorem bitsOf_length (n k : Nat) : (bitsOf n k).length = n := by simp [bitsOf]

@[simp] theorem VReg.bits_length (r : VReg) : r.bits.length = r.len.toNat := by simp [VReg.bits]

theorem packBits_len (x : Bits) (h : x.length ≤ 10) : (packBits x).len.toNat = x.length := by
  simp [packBits]; omega

theorem packBits_data (x : Bits) (h : x.length ≤ 10) : (packBits x).data.toNat = val x := by
  have h1 := val_lt x
  have h2 : 2 ^ x.length ≤ 2 ^ 10 := Nat.pow_le_pow_right (by decide) h
  simp only [packBits, BitVec.toNat_ofNat]
  exact Nat.mod_eq_of_lt (by omega)

/-- What a command writes reads back as the vector it wrote (R22, R23). -/
theorem packBits_bits (x : Bits) (h : x.length ≤ 10) : (packBits x).bits = x := by
  apply List.ext_getElem
  · rw [VReg.bits_length, packBits_len x h]
  · intro j h1 h2
    have hd : (packBits x).data.getLsbD (x.length - 1 - j) = x.getD j false := by
      rw [← val_testBit x j h2, ← packBits_data x h, BitVec.testBit_toNat]
    simp only [VReg.bits, List.getElem_map, List.getElem_range, packBits_len x h, hd]
    simp [List.getD, h2]

theorem vec_setV_same (i : VIdx) (x : Bits) (h : x.length ≤ 10) : vec (s.setV i x) i = .ok x := by
  rw [vec, State.setV_vreg_same, packBits_len x h, if_neg (by omega), packBits_bits x h]

theorem vec_congr {s t : State} {i : VIdx} (h : t.vreg i = s.vreg i) : vec t i = vec s i := by
  simp only [vec, h]

/-- A vector that a register holds has at most 10 elements (R22). -/
theorem vec_length {s : State} {i : VIdx} {x : Bits} (h : vec s i = .ok x) : x.length ≤ 10 := by
  unfold vec at h
  split at h
  · cases h
  · cases h; simpa using by omega

/-- The two outcomes of a source read (R22). -/
theorem vec_cases (i : VIdx) :
    ((s.vreg i).len.toNat ≤ 10 ∧ vec s i = .ok (s.vreg i).bits) ∨
    (10 < (s.vreg i).len.toNat ∧ vec s i = .error .shapeViolation) := by
  by_cases h : (s.vreg i).len.toNat ≤ 10
  · exact .inl ⟨h, if_neg (by omega)⟩
  · exact .inr ⟨by omega, if_pos (by omega)⟩

end Sys2Proof.Machine
end

