-- ==== Sys2Proof/Laws/Execute.lean ====
section
/-!
SUPPORT. What a step can do, said once: every command's meaning is a `commit`, the register map by
offsets, the cases of one bus event, and the fields that a command never touches.
-/

namespace Sys2Proof.Machine

/-! ### Commands -/

/-- Every meaning ends in R94's step 4: it commits a list of writes to its destinations, or an error. -/
theorem exec_commit (i : Instr) (s : State) : ∃ r, exec i s = commit s r := by
  cases i
  case nop => exact ⟨.ok [], rfl⟩
  all_goals exact ⟨_, rfl⟩

theorem exec_next (i : Instr) (s : State) : ∃ t, exec i s = .next t := by
  obtain ⟨r, hr⟩ := exec_commit i s
  exact hr ▸ commit_next s r

/-- Whatever a command does, its outcome is one of R177 and R178, and the rest of the machine stays. -/
theorem commit_frame {s t : State} {r : Except Error (List (VIdx × Bits))} (h : commit s r = .next t) :
    t.tbl0 = s.tbl0 ∧ t.tbl1 = s.tbl1 ∧ t.cmdreg = s.cmdreg ∧ t.cfg = s.cfg ∧ t.inputs = s.inputs ∧
    t.replies = s.replies ∧
    ((t.err = 0 ∧ t.fault = s.fault) ∨ ∃ e : Error, t.err = e.code ∧ t.fault = true ∧ t.v = s.v) := by
  obtain ⟨ws, -, rfl⟩ | ⟨e, -, rfl⟩ := commit_cases h
  · obtain ⟨h1, h2, h3, -, h5, h6, h7, h8⟩ := s.writeAll_same ws
    exact ⟨h1, h2, h3, h6, h7, h8, .inl ⟨rfl, h5⟩⟩
  · exact ⟨rfl, rfl, rfl, rfl, rfl, rfl, .inr ⟨e, rfl, rfl, rfl⟩⟩

theorem exec_frame {i : Instr} {s t : State} (h : exec i s = .next t) :
    t.tbl0 = s.tbl0 ∧ t.tbl1 = s.tbl1 ∧ t.cmdreg = s.cmdreg ∧ t.cfg = s.cfg ∧ t.inputs = s.inputs ∧
    t.replies = s.replies ∧
    ((t.err = 0 ∧ t.fault = s.fault) ∨ ∃ e : Error, t.err = e.code ∧ t.fault = true ∧ t.v = s.v) := by
  obtain ⟨r, hr⟩ := exec_commit i s
  exact commit_frame (hr ▸ h)

/-- The same of a command word: a word that does not decode fails with `IllegalCommand`. -/
theorem execute_frame {w : Word} {s t : State} (h : execute w s = .next t) :
    t.tbl0 = s.tbl0 ∧ t.tbl1 = s.tbl1 ∧ t.cmdreg = s.cmdreg ∧ t.cfg = s.cfg ∧ t.inputs = s.inputs ∧
    t.replies = s.replies ∧
    ((t.err = 0 ∧ t.fault = s.fault) ∨ ∃ e : Error, t.err = e.code ∧ t.fault = true ∧ t.v = s.v) := by
  unfold execute at h
  split at h
  · exact exec_frame h
  · cases h; exact ⟨rfl, rfl, rfl, rfl, rfl, rfl, .inr ⟨.illegalCommand, rfl, rfl, rfl⟩⟩

theorem execute_next (w : Word) (s : State) : ∃ t, execute w s = .next t := by
  unfold execute
  split
  · exact exec_next _ _
  · exact ⟨_, rfl⟩

/-! ### The register map (R52) -/

theorem windowReg_cmd : windowReg 0x00 = .cmd := rfl
theorem windowReg_status : windowReg 0x04 = .status := rfl
theorem windowReg_tbl0 : windowReg 0x08 = .tbl0 := rfl
theorem windowReg_tbl1 : windowReg 0x0C = .tbl1 := rfl

theorem windowReg_vreg (i : VIdx) : windowReg (BitVec.ofNat 6 (0x10 + 4 * i.val)) = .v i := by
  revert i; decide

/-- An aligned offset is one of the sixteen of R52. -/
theorem windowReg_aligned : ∀ off : BitVec 6, off.toNat % 4 = 0 →
    (off = 0x00 ∧ windowReg off = .cmd) ∨ (off = 0x04 ∧ windowReg off = .status) ∨
    (off = 0x08 ∧ windowReg off = .tbl0) ∨ (off = 0x0C ∧ windowReg off = .tbl1) ∨
    (∃ i : VIdx, off.toNat = 0x10 + 4 * i.val ∧ windowReg off = .v i) ∨
    (0x30 ≤ off.toNat ∧ windowReg off = .reserved) := by decide

theorem accessOk_iff {off : BitVec 6} {size : Nat} :
    accessOk off size = true ↔ off.toNat % 4 = 0 ∧ size = 4 := by
  simp [accessOk]

/-! ### One bus event -/

theorem memWrite_next (s : State) (off : BitVec 6) (w : Word) : ∃ t, memWrite s off w = .next t := by
  unfold memWrite
  split
  · exact execute_next _ _
  · exact ⟨_, rfl⟩

theorem serveEvent_next (e : BusEvent) (s : State) : ∃ t, serveEvent e s = .next t := by
  cases e with
  | reset a => exact ⟨_, rfl⟩
  | access a =>
    cases a with
    | read off size => simp only [serveEvent, serve]; split <;> exact ⟨_, rfl⟩
    | write off size w =>
      simp only [serveEvent, serve]
      split
      · obtain ⟨t, ht⟩ := memWrite_next s off w
        exact ⟨_, by rw [ht]; rfl⟩
      · exact ⟨_, rfl⟩

/-- Everything a step can do: idle, a reset, a bus error, a read, a register write, or a command. -/
theorem step_cases {s t : State} (h : step s = .next t) :
    (s.inputs = [] ∧ t = s) ∨
    (∃ a rest, s.inputs = .reset a :: rest ∧ t = resetCore (s.setInputs rest)) ∨
    (∃ off size rest, s.inputs = .access (.read off size) :: rest ∧ accessOk off size = false ∧
      t = (s.setInputs rest).pushReply ⟨true, some 0⟩) ∨
    (∃ off size w rest, s.inputs = .access (.write off size w) :: rest ∧ accessOk off size = false ∧
      t = (s.setInputs rest).pushReply ⟨true, none⟩) ∨
    (∃ off rest, s.inputs = .access (.read off 4) :: rest ∧ off.toNat % 4 = 0 ∧
      t = (s.setInputs rest).pushReply ⟨false, some (memRead s off)⟩) ∨
    (∃ off w rest, s.inputs = .access (.write off 4 w) :: rest ∧ off.toNat % 4 = 0 ∧
      windowReg off ≠ .cmd ∧
      t = (storeReg (s.setInputs rest) (windowReg off) w).pushReply ⟨false, none⟩) ∨
    (∃ w rest u, s.inputs = .access (.write 0x00 4 w) :: rest ∧
      execute w ((s.setInputs rest).setCmdreg w) = .next u ∧ t = u.pushReply ⟨false, none⟩) := by
  unfold step stepEvent at h
  split at h
  · next hi => cases h; exact .inl ⟨hi, rfl⟩
  · next e rest hi =>
    right
    cases e with
    | reset a => cases h; exact .inl ⟨a, rest, hi, rfl⟩
    | access a =>
      right
      cases a with
      | read off size =>
        simp only [serveEvent, serve] at h
        split at h
        · next hok =>
          obtain ⟨ha, rfl⟩ := accessOk_iff.mp hok
          cases h
          exact .inr (.inr (.inl ⟨off, rest, hi, ha, rfl⟩))
        · next hok => cases h; exact .inl ⟨off, size, rest, hi, by simpa using hok, rfl⟩
      | write off size w =>
        simp only [serveEvent, serve] at h
        split at h
        · next hok =>
          obtain ⟨ha, rfl⟩ := accessOk_iff.mp hok
          right; right; right
          by_cases hc : windowReg off = .cmd
          · right
            have h0 : off = 0x00 := by
              simpa [hc] using windowReg_aligned off ha
            subst h0
            obtain ⟨u, hu⟩ := execute_next w ((s.setInputs rest).setCmdreg w)
            simp only [memWrite, hc, storeReg, hu, acknowledge] at h
            cases h
            exact ⟨w, rest, u, hi, hu, rfl⟩
          · left
            refine ⟨off, w, rest, hi, ha, hc, ?_⟩
            unfold memWrite at h
            split at h
            · contradiction
            · cases h; rfl
        · next hok =>
          cases h
          exact .inr (.inl ⟨off, size, w, rest, hi, by simpa using hok, rfl⟩)

/-- A register write touches none of what R59 does not name. -/
theorem storeReg_same (s : State) (r : WindowReg) (w : Word) :
    (storeReg s r w).err = s.err ∧ (storeReg s r w).cfg = s.cfg ∧ (storeReg s r w).inputs = s.inputs ∧
    (storeReg s r w).replies = s.replies := by
  cases r
  case status => simp only [storeReg]; split <;> exact ⟨rfl, rfl, rfl, rfl⟩
  all_goals exact ⟨rfl, rfl, rfl, rfl⟩

end Sys2Proof.Machine
end

