-- ==== Sys2Proof/Laws/Primitives.lean ====
section
/-!
SUPPORT. One lemma for each primitive operation that says what it answers and when, and the total form of
the composed ones under a configuration that meets 10_state.md R33 (30_encoding.md R97).
-/

namespace Sys2Proof.Machine

/-! ### The bit-vector primitives -/

theorem permute_ok {x : Bits} {t : PermTable} (h : ∀ p ∈ t, 1 ≤ p ∧ p ≤ x.length) :
    permute x t = .ok (t.map fun p => x.getD (p - 1) false) := if_pos h

theorem permute_error {x : Bits} {t : PermTable} (h : ∃ p ∈ t, p < 1 ∨ x.length < p) :
    permute x t = .error .indexOutOfRange := by
  obtain ⟨p, hp, hb⟩ := h
  exact if_neg fun hall => by have := hall p hp; omega

theorem permute_ok_length {x y : Bits} {t : PermTable} (h : permute x t = .ok y) :
    y.length = t.length := by
  unfold permute at h
  split at h
  · cases h; simp
  · cases h

/-- A table of shape `m`, `n` applies to every vector of length `n` or more (R33). -/
theorem permute_shape {x : Bits} {t : PermTable} {m n : Nat} (h : t.Shape m n) (hn : n ≤ x.length) :
    permute x t = .ok (t.map fun p => x.getD (p - 1) false) :=
  permute_ok fun p hp => ⟨(h.2 p hp).1, (h.2 p hp).2.trans hn⟩

theorem permute_shape_length {x : Bits} {t : PermTable} {m n : Nat} (h : t.Shape m n)
    (hn : n ≤ x.length) : ∃ y, permute x t = .ok y ∧ y.length = m :=
  ⟨_, permute_shape h hn, by simpa using h.1⟩

theorem splitHalf_ok {x : Bits} (h : x.length % 2 = 0) :
    splitHalf x = .ok (x.take (x.length / 2), x.drop (x.length / 2)) := if_neg (by omega)

theorem splitHalf_error {x : Bits} (h : x.length % 2 = 1) : splitHalf x = .error .shapeViolation :=
  if_pos h

theorem rotateLeft_ok {x : Bits} {k : Nat} (h : k ≤ x.length) :
    rotateLeft x k = .ok (x.drop k ++ x.take k) := if_neg (by omega)

theorem rotateLeft_error {x : Bits} {k : Nat} (h : x.length < k) :
    rotateLeft x k = .error .shapeViolation := if_pos h

theorem xorBits_ok {a b : Bits} (h : a.length = b.length) :
    xorBits a b = .ok (List.zipWith Bool.xor a b) := if_neg (by simpa using h)

theorem xorBits_error {a b : Bits} (h : a.length ≠ b.length) : xorBits a b = .error .lengthMismatch :=
  if_pos h

theorem concatBits_ok {a b : Bits} (h : a.length + b.length ≤ 10) : concatBits a b = .ok (a ++ b) :=
  if_neg (by omega)

theorem concatBits_error {a b : Bits} (h : 10 < a.length + b.length) :
    concatBits a b = .error .shapeViolation := if_pos h

theorem requireLength_ok {x : Bits} {n : Nat} (h : x.length = n) : requireLength x n = .ok () :=
  if_pos h

theorem requireLength_error {x : Bits} {n : Nat} (h : x.length ≠ n) :
    requireLength x n = .error .shapeViolation := if_neg h

/-! ### substitute -/

/-- "`substitute` never errors for any 4-bit input; output is always a valid 2-bit vector" (R121). -/
theorem substitute_ok {x : Bits} (box : SBox) (h : x.length = 4) :
    ∃ y, substitute x box = .ok y ∧ y.length = 2 := by
  match x, h with
  | [_, _, _, _], _ => exact ⟨_, rfl, rfl⟩

theorem substitute_error {x : Bits} (box : SBox) (h : x.length ≠ 4) :
    substitute x box = .error .shapeViolation := by
  unfold substitute
  split
  · simp at h
  · rfl

/-! ### The composed operations, total under R33 -/

section Total

variable {t : Tables} (wf : t.WellFormed)

include wf

theorem subkeyRound_ok {l r : Bits} {k : Nat} (hl : l.length = 5) (hr : r.length = 5) (hk : k ≤ 5) :
    ∃ l' r' key, subkeyRound t k l r = .ok (l', r', key) ∧ l'.length = 5 ∧ r'.length = 5 ∧
      key.length = 8 := by
  obtain ⟨-, -, -, -, -, h8, -, -⟩ := wf
  obtain ⟨key, hkey, hlen⟩ := permute_shape_length (x := (l.drop k ++ l.take k) ++ (r.drop k ++ r.take k))
    h8 (by simp; omega)
  refine ⟨l.drop k ++ l.take k, r.drop k ++ r.take k, key, ?_, by simp; omega, by simp; omega, hlen⟩
  simp only [subkeyRound, rotateLeft_ok (hk.trans_eq hl.symm), rotateLeft_ok (hk.trans_eq hr.symm),
    bind, Except.bind, pure, Except.pure, hkey]

/-- A 10-element key has two 8-element subkeys (R130, R97). -/
theorem generateSubkeys_ok {k : Bits} (hk : k.length = 10) :
    ∃ k1 k2, generateSubkeys t k = .ok (k1, k2) ∧ k1.length = 8 ∧ k2.length = 8 := by
  have h10 := wf.2.2.2.2.1
  obtain ⟨p, hp, hpl⟩ := permute_shape_length (x := k) h10 (by omega)
  obtain ⟨l1, r1, k1, e1, hl1, hr1, hk1⟩ :=
    subkeyRound_ok wf (l := p.take (p.length / 2)) (r := p.drop (p.length / 2)) (k := 1)
      (by simp; omega) (by simp; omega) (by decide)
  obtain ⟨l2, r2, k2, e2, -, -, hk2⟩ := subkeyRound_ok wf (k := 2) hl1 hr1 (by decide)
  refine ⟨k1, k2, ?_, hk1, hk2⟩
  simp only [generateSubkeys, requireLength_ok hk, hp,
    splitHalf_ok (x := p) (by omega), bind, Except.bind, pure, Except.pure]
  rw [show ls[0] = 1 from rfl, show ls[1] = 2 from rfl, e1]
  simp only [e2]

/-- `roundFunction` on a 4-element half and an 8-element subkey answers 4 elements (R140, R97). -/
theorem roundFunction_ok {r k : Bits} (hr : r.length = 4) (hk : k.length = 8) :
    ∃ y, roundFunction t r k = .ok y ∧ y.length = 4 := by
  obtain ⟨-, -, hep, h4, -, -, -, -⟩ := wf
  obtain ⟨e, he, hel⟩ := permute_shape_length (x := r) hep (by omega)
  obtain ⟨x, hx, hxl⟩ : ∃ x, xorBits e k = .ok x ∧ x.length = 8 :=
    ⟨_, xorBits_ok (by omega), by simp; omega⟩
  obtain ⟨sa, hsa, hsal⟩ := substitute_ok (x := x.take (x.length / 2)) t.s0 (by simp; omega)
  obtain ⟨sb, hsb, hsbl⟩ := substitute_ok (x := x.drop (x.length / 2)) t.s1 (by simp; omega)
  obtain ⟨y, hy, hyl⟩ := permute_shape_length (x := sa ++ sb) h4 (by simp; omega)
  refine ⟨y, ?_, hyl⟩
  simp only [roundFunction, requireLength_ok hr, he, hx,
    splitHalf_ok (x := x) (by omega), hsa, hsb, bind, Except.bind, hy]

theorem feistelRound_ok {k l r : Bits} (hk : k.length = 8) (hl : l.length = 4) (hr : r.length = 4) :
    ∃ f, roundFunction t r k = .ok f ∧ f.length = 4 ∧
      feistelRound t k l r = .ok (r, List.zipWith Bool.xor l f) := by
  obtain ⟨f, hf, hfl⟩ := roundFunction_ok wf hr hk
  refine ⟨f, hf, hfl, ?_⟩
  simp only [feistelRound, hf, xorBits_ok (hl.trans hfl.symm), bind, Except.bind, pure, Except.pure]

end Total

/-- The shape of R150's computation: the halves after IP, the two round outputs, and the vector IP⁻¹ is
applied to. -/
theorem feistel_ok {c : Config} (wf : c.WellFormed) {x ka kb : Bits} (hx : x.length = 8)
    (ha : ka.length = 8) (hb : kb.length = 8) :
    ∃ l0 r0 f g y, permute x c.tables.ip = .ok (l0 ++ r0) ∧ l0.length = 4 ∧ r0.length = 4 ∧
      roundFunction c.tables r0 ka = .ok f ∧ f.length = 4 ∧
      roundFunction c.tables (List.zipWith Bool.xor l0 f) kb = .ok g ∧ g.length = 4 ∧
      permute (joinHalves c.finalHalfOrder (List.zipWith Bool.xor l0 f) (List.zipWith Bool.xor r0 g))
        c.tables.ipinv = .ok y ∧ y.length = 8 ∧ feistel c x ka kb = .ok y := by
  have hip := wf.1
  have hinv := wf.2.1
  obtain ⟨p, hp, hpl⟩ := permute_shape_length (x := x) hip (by omega)
  have hl0 : (p.take (p.length / 2)).length = 4 := by simp; omega
  have hr0 : (p.drop (p.length / 2)).length = 4 := by simp; omega
  obtain ⟨f, hf, hfl, e1⟩ := feistelRound_ok wf ha hl0 hr0
  have hr1 : (List.zipWith Bool.xor (p.take (p.length / 2)) f).length = 4 := by
    simp only [List.length_zipWith]; omega
  obtain ⟨g, hg, hgl, e2⟩ := feistelRound_ok wf hb hr0 hr1
  have hr2 : (List.zipWith Bool.xor (p.drop (p.length / 2)) g).length = 4 := by
    simp only [List.length_zipWith]; omega
  obtain ⟨y, hy, hyl⟩ := permute_shape_length (x := joinHalves c.finalHalfOrder
      (List.zipWith Bool.xor (p.take (p.length / 2)) f)
      (List.zipWith Bool.xor (p.drop (p.length / 2)) g)) hinv
    (by cases c.finalHalfOrder <;> simp only [joinHalves, List.length_append] <;> omega)
  refine ⟨_, _, f, g, y, by rw [hp, List.take_append_drop], hl0, hr0, hf, hfl, hg, hgl, hy, hyl, ?_⟩
  simp only [feistel, hp, splitHalf_ok (x := p) (by omega), e1, e2, bind, Except.bind]
  exact hy

end Sys2Proof.Machine
end

