-- ==== Sys2Proof/Laws/Errors.lean ====
section
/-!
SUPPORT. Which errors the core can raise (60_exceptions.md R171, R174): a computation that never raises
the host's parse error stays so under composition, and every command is one.
-/

namespace Sys2Proof.Machine

/-- The computation does not raise `InvalidBitValue`, the code R174 reserves for the host. -/
def NoParseError {α : Type} (r : Except Error α) : Prop := r ≠ .error .invalidBitValue

theorem NoParseError.ok {α : Type} (a : α) : NoParseError (.ok a) := nofun

theorem NoParseError.bind {α β : Type} {r : Except Error α} {f : α → Except Error β}
    (hr : NoParseError r) (hf : ∀ a, NoParseError (f a)) : NoParseError (r >>= f) := by
  cases r with
  | ok a => exact hf a
  | error e => exact fun h => hr (by simpa [Bind.bind, Except.bind] using h)

theorem NoParseError.ite {α : Type} {p : Prop} [Decidable p] {r q : Except Error α}
    (hr : NoParseError r) (hq : NoParseError q) : NoParseError (if p then r else q) := by
  split <;> assumption

theorem vec_noParseError (s : State) (i : VIdx) : NoParseError (vec s i) := .ite nofun nofun
theorem userTable_noParseError (s : State) : NoParseError (userTable s) := .ite nofun nofun
theorem distinctDests_noParseError (d d2 : VIdx) : NoParseError (distinctDests d d2) := .ite nofun nofun
theorem permute_noParseError (x : Bits) (t : PermTable) : NoParseError (permute x t) := .ite nofun nofun
theorem splitHalf_noParseError (x : Bits) : NoParseError (splitHalf x) := .ite nofun nofun
theorem rotateLeft_noParseError (x : Bits) (k : Nat) : NoParseError (rotateLeft x k) :=
  .ite nofun nofun
theorem xorBits_noParseError (a b : Bits) : NoParseError (xorBits a b) := .ite nofun nofun
theorem concatBits_noParseError (a b : Bits) : NoParseError (concatBits a b) := .ite nofun nofun

theorem requireLength_noParseError (x : Bits) (n : Nat) : NoParseError (requireLength x n) :=
  .ite nofun nofun

theorem substitute_noParseError (x : Bits) (box : SBox) : NoParseError (substitute x box) := by
  unfold substitute
  split <;> nofun

theorem subkeyRound_noParseError (t : Tables) (k : Nat) (l r : Bits) :
    NoParseError (subkeyRound t k l r) :=
  .bind (rotateLeft_noParseError _ _) fun _ => .bind (rotateLeft_noParseError _ _) fun _ =>
    .bind (permute_noParseError _ _) fun _ => .ok _

theorem generateSubkeys_noParseError (t : Tables) (k : Bits) : NoParseError (generateSubkeys t k) :=
  .bind (requireLength_noParseError _ _) fun _ => .bind (permute_noParseError _ _) fun _ =>
    .bind (splitHalf_noParseError _) fun _ => .bind (subkeyRound_noParseError _ _ _ _) fun _ =>
      .bind (subkeyRound_noParseError _ _ _ _) fun _ => .ok _

theorem roundFunction_noParseError (t : Tables) (r k : Bits) : NoParseError (roundFunction t r k) :=
  .bind (requireLength_noParseError _ _) fun _ => .bind (permute_noParseError _ _) fun _ =>
    .bind (xorBits_noParseError _ _) fun _ => .bind (splitHalf_noParseError _) fun _ =>
      .bind (substitute_noParseError _ _) fun _ => .bind (substitute_noParseError _ _) fun _ =>
        permute_noParseError _ _

theorem feistelRound_noParseError (t : Tables) (k l r : Bits) : NoParseError (feistelRound t k l r) :=
  .bind (roundFunction_noParseError _ _ _) fun _ => .bind (xorBits_noParseError _ _) fun _ => .ok _

theorem feistel_noParseError (c : Config) (x ka kb : Bits) : NoParseError (feistel c x ka kb) :=
  .bind (permute_noParseError _ _) fun _ => .bind (splitHalf_noParseError _) fun _ =>
    .bind (feistelRound_noParseError _ _ _ _) fun _ => .bind (feistelRound_noParseError _ _ _ _) fun _ =>
      permute_noParseError _ _

theorem encrypt_noParseError (c : Config) (p k : Bits) : NoParseError (encrypt c p k) :=
  .bind (requireLength_noParseError _ _) fun _ => .bind (requireLength_noParseError _ _) fun _ =>
    .bind (generateSubkeys_noParseError _ _) fun _ => feistel_noParseError _ _ _ _

theorem decrypt_noParseError (c : Config) (x k : Bits) : NoParseError (decrypt c x k) :=
  .bind (requireLength_noParseError _ _) fun _ => .bind (requireLength_noParseError _ _) fun _ =>
    .bind (generateSubkeys_noParseError _ _) fun _ => feistel_noParseError _ _ _ _

/-- Every command commits a computation that never raises the host's parse error. -/
theorem exec_commit_noParseError (i : Instr) (s : State) :
    ∃ r, exec i s = commit s r ∧ NoParseError r := by
  cases i with
  | nop => exact ⟨.ok [], rfl, .ok _⟩
  | permuteTbl rd rs1 =>
    exact ⟨_, rfl, .bind (vec_noParseError _ _) fun _ => .bind (userTable_noParseError _) fun _ =>
      .bind (permute_noParseError _ _) fun _ => .ok _⟩
  | xor rd rs1 rs2 =>
    exact ⟨_, rfl, .bind (vec_noParseError _ _) fun _ => .bind (vec_noParseError _ _) fun _ =>
      .bind (xorBits_noParseError _ _) fun _ => .ok _⟩
  | split rd rd2 rs1 =>
    exact ⟨_, rfl, .bind (distinctDests_noParseError _ _) fun _ => .bind (vec_noParseError _ _) fun _ =>
      .bind (splitHalf_noParseError _) fun _ => .ok _⟩
  | rotl rd rs1 n =>
    exact ⟨_, rfl, .bind (vec_noParseError _ _) fun _ => .bind (rotateLeft_noParseError _ _) fun _ =>
      .ok _⟩
  | concat rd rs1 rs2 =>
    exact ⟨_, rfl, .bind (vec_noParseError _ _) fun _ => .bind (vec_noParseError _ _) fun _ =>
      .bind (concatBits_noParseError _ _) fun _ => .ok _⟩
  | sboxS0 rd rs1 =>
    exact ⟨_, rfl, .bind (vec_noParseError _ _) fun _ => .bind (substitute_noParseError _ _) fun _ =>
      .ok _⟩
  | sboxS1 rd rs1 =>
    exact ⟨_, rfl, .bind (vec_noParseError _ _) fun _ => .bind (substitute_noParseError _ _) fun _ =>
      .ok _⟩
  | keygen rd rd2 rs1 =>
    exact ⟨_, rfl, .bind (distinctDests_noParseError _ _) fun _ => .bind (vec_noParseError _ _) fun _ =>
      .bind (generateSubkeys_noParseError _ _) fun _ => .ok _⟩
  | round rd rs1 rs2 =>
    exact ⟨_, rfl, .bind (vec_noParseError _ _) fun _ => .bind (vec_noParseError _ _) fun _ =>
      .bind (roundFunction_noParseError _ _ _) fun _ => .ok _⟩
  | encrypt rd rs1 rs2 =>
    exact ⟨_, rfl, .bind (vec_noParseError _ _) fun _ => .bind (vec_noParseError _ _) fun _ =>
      .bind (encrypt_noParseError _ _ _) fun _ => .ok _⟩
  | decrypt rd rs1 rs2 =>
    exact ⟨_, rfl, .bind (vec_noParseError _ _) fun _ => .bind (vec_noParseError _ _) fun _ =>
      .bind (decrypt_noParseError _ _ _) fun _ => .ok _⟩
  | _ rd rs1 =>
    exact ⟨_, rfl, .bind (vec_noParseError _ _) fun _ => .bind (.ok _) fun _ =>
      .bind (permute_noParseError _ _) fun _ => .ok _⟩

end Sys2Proof.Machine
end

