-- ==== Sys2Proof/Laws/PerInstr.lean ====
section
/-!
SUPPORT. Statements about each command as syntax, one lemma for each constructor: `EncodedFields` (the
word of a command holds its opcode, and RSV is zero) and `TableRow` (the word belongs to the command's row
of opcode_table.json).
-/

namespace Sys2Proof.Laws

/-- The bits that a row of mask 0xFF00000F fixes: RSV and OP. -/
theorem word_and_opMask (f : CmdFields) : f.word &&& (0xFF00000F : Word) = f.op.setWidth 32 := by
  ext k hk
  simp only [CmdFields.word, BitVec.getElem_and, BitVec.getElem_or, BitVec.getElem_shiftLeft,
    BitVec.getElem_setWidth]
  interval_cases k <;> simp

/-- The bits that a row of mask 0xFFF0000F fixes: RSV, IMM and OP. -/
theorem word_and_immMask (f : CmdFields) :
    f.word &&& (0xFFF0000F : Word) = f.imm.setWidth 32 <<< 20 ||| f.op.setWidth 32 := by
  ext k hk
  simp only [CmdFields.word, BitVec.getElem_and, BitVec.getElem_or, BitVec.getElem_shiftLeft,
    BitVec.getElem_setWidth]
  interval_cases k <;> simp

namespace EncodedFields

/-- The word of a command holds its opcode in OP (R83), and RSV is zero (R82). -/
def Statement (i : Instr) : Prop := opField (encode i) = i.fields.op ∧ rsvField (encode i) = 0

theorem holds (i : Instr) : Statement i := ⟨CmdFields.word_op _, CmdFields.word_rsv _⟩

theorem nop : Statement .nop := holds _
theorem permuteIp (rd rs1 : VIdx) : Statement (.permuteIp rd rs1) := holds _
theorem permuteIpinv (rd rs1 : VIdx) : Statement (.permuteIpinv rd rs1) := holds _
theorem permuteEp (rd rs1 : VIdx) : Statement (.permuteEp rd rs1) := holds _
theorem permuteP4 (rd rs1 : VIdx) : Statement (.permuteP4 rd rs1) := holds _
theorem permuteP10 (rd rs1 : VIdx) : Statement (.permuteP10 rd rs1) := holds _
theorem permuteP8 (rd rs1 : VIdx) : Statement (.permuteP8 rd rs1) := holds _
theorem permuteTbl (rd rs1 : VIdx) : Statement (.permuteTbl rd rs1) := holds _
theorem xor (rd rs1 rs2 : VIdx) : Statement (.xor rd rs1 rs2) := holds _
theorem split (rd rd2 rs1 : VIdx) : Statement (.split rd rd2 rs1) := holds _
theorem rotl (rd rs1 : VIdx) (n : Fin 16) : Statement (.rotl rd rs1 n) := holds _
theorem concat (rd rs1 rs2 : VIdx) : Statement (.concat rd rs1 rs2) := holds _
theorem sboxS0 (rd rs1 : VIdx) : Statement (.sboxS0 rd rs1) := holds _
theorem sboxS1 (rd rs1 : VIdx) : Statement (.sboxS1 rd rs1) := holds _
theorem keygen (rd rd2 rs1 : VIdx) : Statement (.keygen rd rd2 rs1) := holds _
theorem round (rd rs1 rs2 : VIdx) : Statement (.round rd rs1 rs2) := holds _
theorem encrypt (rd rs1 rs2 : VIdx) : Statement (.encrypt rd rs1 rs2) := holds _
theorem decrypt (rd rs1 rs2 : VIdx) : Statement (.decrypt rd rs1 rs2) := holds _

end EncodedFields

namespace TableRow

/-- The word of a command belongs to its row of the opcode table. -/
def Statement (i : Instr) : Prop := encode i &&& i.row.mask = i.row.pattern

theorem nop : Statement .nop := word_and_opMask _
theorem permuteIp (rd rs1 : VIdx) : Statement (.permuteIp rd rs1) :=
  (word_and_immMask _).trans (by simp [Instr.fields, Instr.row])
theorem permuteIpinv (rd rs1 : VIdx) : Statement (.permuteIpinv rd rs1) :=
  (word_and_immMask _).trans (by simp [Instr.fields, Instr.row])
theorem permuteEp (rd rs1 : VIdx) : Statement (.permuteEp rd rs1) :=
  (word_and_immMask _).trans (by simp [Instr.fields, Instr.row])
theorem permuteP4 (rd rs1 : VIdx) : Statement (.permuteP4 rd rs1) :=
  (word_and_immMask _).trans (by simp [Instr.fields, Instr.row])
theorem permuteP10 (rd rs1 : VIdx) : Statement (.permuteP10 rd rs1) :=
  (word_and_immMask _).trans (by simp [Instr.fields, Instr.row])
theorem permuteP8 (rd rs1 : VIdx) : Statement (.permuteP8 rd rs1) :=
  (word_and_immMask _).trans (by simp [Instr.fields, Instr.row])
theorem permuteTbl (rd rs1 : VIdx) : Statement (.permuteTbl rd rs1) :=
  (word_and_immMask _).trans (by simp [Instr.fields, Instr.row])
theorem xor (rd rs1 rs2 : VIdx) : Statement (.xor rd rs1 rs2) := word_and_opMask _
theorem split (rd rd2 rs1 : VIdx) : Statement (.split rd rd2 rs1) := word_and_opMask _
theorem rotl (rd rs1 : VIdx) (n : Fin 16) : Statement (.rotl rd rs1 n) := word_and_opMask _
theorem concat (rd rs1 rs2 : VIdx) : Statement (.concat rd rs1 rs2) := word_and_opMask _
theorem sboxS0 (rd rs1 : VIdx) : Statement (.sboxS0 rd rs1) :=
  (word_and_immMask _).trans (by simp [Instr.fields, Instr.row])
theorem sboxS1 (rd rs1 : VIdx) : Statement (.sboxS1 rd rs1) :=
  (word_and_immMask _).trans (by simp [Instr.fields, Instr.row])
theorem keygen (rd rd2 rs1 : VIdx) : Statement (.keygen rd rd2 rs1) := word_and_opMask _
theorem round (rd rs1 rs2 : VIdx) : Statement (.round rd rs1 rs2) := word_and_opMask _
theorem encrypt (rd rs1 rs2 : VIdx) : Statement (.encrypt rd rs1 rs2) := word_and_opMask _
theorem decrypt (rd rs1 rs2 : VIdx) : Statement (.decrypt rd rs1 rs2) := word_and_opMask _

end TableRow

end Sys2Proof.Laws
end

