-- ==== Sys2Proof/Tests/Slice0.lean ====
section
/-!
SUPPORT. The model's own tests. Expected values are written out from spec/: words from the field tables of
30_encoding.md, results from the rows of 95_test_vectors.md named in each test. The witnesses of the
obligations' hypotheses are in Witnesses.lean.
-/

namespace Sys2Proof.Tests

open Sys2Proof.Machine Sys2Proof.Reference

/-! ### Well-formedness -/

theorem test_wf_refuses_split_equal_destinations : (Instr.split 2 2 1).wf = false := by decide
theorem test_wf_refuses_keygen_equal_destinations : (Instr.keygen 1 1 0).wf = false := by decide
theorem test_wf_accepts_destination_equal_source : (Instr.split 1 3 1).wf = true := by decide
theorem test_config_default_wellFormed : Config.default.WellFormed := by decide

theorem test_config_refuses_bad_entry :
    State.resetWith? ⟨{ Tables.standard with ep := [5, 1, 2, 3, 2, 3, 4, 1] }, .r2l2⟩ = none := by decide

theorem test_config_refuses_no_inverse :
    State.resetWith? ⟨{ Tables.standard with ipinv := [1, 2, 3, 4, 5, 6, 7, 8] }, .r2l2⟩ = none := by
  decide

/-! ### Decoding: one word for each command, from R81, R83, R86 and R90 -/

theorem test_decode_nop : decode 0b00000000000000000000000000000000 = .ok .nop := by decide
theorem test_decode_nop_unused_fields : decode 0x00FFFFF0 = .ok .nop := by decide
theorem test_decode_permute_ip : decode 0b00000000000000000000000000010001 = .ok (.permuteIp 1 0) := by
  decide
theorem test_decode_permute_ipinv :
    decode 0b00000000000100000000000000010001 = .ok (.permuteIpinv 1 0) := by decide
theorem test_decode_permute_ep : decode 0b00000000001000000000001100100001 = .ok (.permuteEp 2 3) := by
  decide
theorem test_decode_permute_p4 : decode 0b00000000001100000000011101100001 = .ok (.permuteP4 6 7) := by
  decide
theorem test_decode_permute_p10 : decode 0b00000000010000000000000000010001 = .ok (.permuteP10 1 0) := by
  decide
theorem test_decode_permute_p8 : decode 0b00000000010100000000010001000001 = .ok (.permuteP8 4 4) := by
  decide
theorem test_decode_permute_tbl : decode 0b00000000011100000000010101100001 = .ok (.permuteTbl 6 5) := by
  decide
theorem test_decode_xor : decode 0b00000000000000000010000100110010 = .ok (.xor 3 1 2) := by decide
theorem test_decode_split : decode 0b00000000000000110000000100100011 = .ok (.split 2 3 1) := by decide
theorem test_decode_rotl : decode 0b00000000111100000000001000110100 = .ok (.rotl 3 2 15) := by decide
theorem test_decode_concat : decode 0b00000000000000000011001001000101 = .ok (.concat 4 2 3) := by decide
theorem test_decode_sbox_s0 : decode 0b00000000000000000000000000010110 = .ok (.sboxS0 1 0) := by decide
theorem test_decode_sbox_s1 : decode 0b00000000000100000000000000010110 = .ok (.sboxS1 1 0) := by decide
theorem test_decode_keygen : decode 0b00000000000001110000000001100111 = .ok (.keygen 6 7 0) := by decide
theorem test_decode_round : decode 0b00000000000000000110010001011000 = .ok (.round 5 4 6) := by decide
theorem test_decode_encrypt : decode 0b00000000000000000001000000101001 = .ok (.encrypt 2 0 1) := by
  decide
theorem test_decode_decrypt : decode 0b00000000000000000001001000111010 = .ok (.decrypt 3 2 1) := by
  decide

/-! ### Refused words: each reason of R88, at its boundaries -/

theorem test_decode_refuses_reserved_bits :
    decode 0x01001021 = .error .reservedBits ∧ decode 0xFF000000 = .error .reservedBits := by decide
theorem test_decode_refuses_reserved_opcodes :
    decode 0x0000000B = .error .reservedOpcode ∧ decode 0x0000000F = .error .reservedOpcode := by decide
theorem test_decode_refuses_register_8 :
    decode 0x00001082 = .error .registerField ∧ decode 0x00008022 = .error .registerField ∧
    decode 0x00000934 = .error .registerField ∧ decode 0x00090123 = .error .registerField := by decide
theorem test_decode_refuses_reserved_immediates :
    decode 0x00600011 = .error .reservedImmediate ∧ decode 0x00800011 = .error .reservedImmediate ∧
    decode 0x00200016 = .error .reservedImmediate := by decide
theorem test_decode_refuses_equal_destinations :
    decode 0x00020123 = .error .equalDestinations ∧ decode 0x00010017 = .error .equalDestinations := by
  decide

/-- The table's word of a row, laid out by the host, is the row's command. -/
theorem test_decodeTableWord_sbox_s1 : decodeTableWord 32 0x00100006 = some (.sboxS1 0 0) := by decide

/-! ### One step for each command (95_test_vectors.md) -/

/-- The state after reset with these vectors loaded. -/
def start (regs : List (VIdx × Bits)) : State := State.reset.writeAll regs

/-- After one step that runs the word `w` from `s`: the register `i`, ERR and FAULT. -/
def after (w : Nat) (s : State) (i : VIdx) : Option (VReg × BitVec 4 × Bool) :=
  match step (s.withFetchWord 32 w) with
  | .next t => some (t.vreg i, t.err, t.fault)
  | _ => none

/-- A vector from its value (R11: `0000000001` has value 1). -/
def bv (n k : Nat) : Bits := bitsOf n k

theorem test_bv_of_string : parseBits "1010000010".toList = .ok (bv 10 0b1010000010) := by decide

/-- DC2, and host trace step 31. -/
theorem test_nop_keeps_fault :
    after 0x00FFFFF0 ((start []).recordFailure .shapeViolation) 0 = some (⟨0, 0⟩, 0, true) := by decide
/-- PM2. -/
theorem test_permute_ip_PM2 :
    after 0x00000011 (start [(0, bv 8 0b10010111)]) 1 = some (⟨8, 0b01011101⟩, 0, false) := by decide
/-- PM4. -/
theorem test_permute_ipinv_PM4 :
    after 0x00100011 (start [(0, bv 8 0b00101010)]) 1 = some (⟨8, 0b00111000⟩, 0, false) := by decide
/-- PM11: a longer vector, of which only the first 4 elements are read. -/
theorem test_permute_ep_PM11 :
    after 0x00200011 (start [(0, bv 8 0b10011101)]) 1 = some (⟨8, 0b11000011⟩, 0, false) := by decide
/-- PM8. -/
theorem test_permute_p4_PM8 :
    after 0x00300011 (start [(0, bv 4 0b0110)]) 1 = some (⟨4, 0b1010⟩, 0, false) := by decide
/-- PM1. -/
theorem test_permute_p10_PM1 :
    after 0x00400011 (start [(0, bv 10 0b1010000010)]) 1 = some (⟨10, 0b1000001100⟩, 0, false) := by
  decide
/-- PM9, and PM12: entries above the length. -/
theorem test_permute_p8_PM9_PM12 :
    after 0x00500011 (start [(0, bv 10 0b0000111000)]) 1 = some (⟨8, 0b10100100⟩, 0, false) ∧
    after 0x00500011 (start [(0, bv 8 0b10010111)]) 1 = some (⟨0, 0⟩, 1, true) := by decide
/-- PM15: entry 1 is TBL0[3:0], so the table reverses the vector. -/
theorem test_permute_tbl_PM15 :
    after 0x00700011 (((start [(0, bv 8 0b10010111)]).setTbl0 0x12345678).setTbl1 ⟨8, 0, 0⟩) 1 =
      some (⟨8, 0b11101001⟩, 0, false) := by decide
/-- PM17, PM18 and PM20: an entry of 9, an entry of 0, and a TLEN of 11. -/
theorem test_permute_tbl_errors :
    after 0x00700011 (((start [(0, bv 8 0b10010111)]).setTbl0 0x87654329).setTbl1 ⟨8, 0, 0⟩) 1 =
      some (⟨0, 0⟩, 1, true) ∧
    after 0x00700011 (((start [(0, bv 8 0b10010111)]).setTbl0 0x87654320).setTbl1 ⟨8, 0, 0⟩) 1 =
      some (⟨0, 0⟩, 1, true) ∧
    after 0x00700011 (((start [(0, bv 8 0b10010111)]).setTbl0 0x87654321).setTbl1 ⟨11, 0, 0⟩) 1 =
      some (⟨0, 0⟩, 4, true) := by decide
/-- XR7 (a destination that is a source) and XR8. -/
theorem test_xor_XR7_XR8 :
    after 0x00002112 (start [(1, bv 4 0b1010), (2, bv 4 0b0110)]) 1 = some (⟨4, 0b1100⟩, 0, false) ∧
    after 0x00002132 (start [(1, bv 4 0b1010), (2, bv 5 0b01101)]) 3 = some (⟨0, 0⟩, 2, true) := by
  decide
/-- SP9: the second destination is the source. -/
theorem test_split_SP9 :
    after 0x00010133 (start [(1, bv 10 0b1000001100)]) 1 = some (⟨5, 0b01100⟩, 0, false) ∧
    after 0x00010133 (start [(1, bv 10 0b1000001100)]) 3 = some (⟨5, 0b10000⟩, 0, false) := by decide
/-- SP6: an odd length. -/
theorem test_split_SP6 : after 0x00030123 (start [(1, bv 5 0b10000)]) 2 = some (⟨0, 0⟩, 4, true) := by
  decide
/-- RL10, RL14 and RL15. -/
theorem test_rotl_RL10_RL14_RL15 :
    after 0x00300224 (start [(2, bv 5 0b01100)]) 2 = some (⟨5, 0b00011⟩, 0, false) ∧
    after 0x00A00234 (start [(2, bv 10 0b1000001100)]) 3 = some (⟨10, 0b1000001100⟩, 0, false) ∧
    after 0x00B00234 (start [(2, bv 10 0b1000001100)]) 3 = some (⟨0, 0⟩, 4, true) := by decide
/-- CC1, and CC7: 1 + 10 elements. -/
theorem test_concat_CC1_CC7 :
    after 0x00003245 (start [(2, bv 5 0b00001), (3, bv 5 0b11000)]) 4 =
      some (⟨10, 0b0000111000⟩, 0, false) ∧
    after 0x00003245 (start [(2, bv 1 1), (3, bv 10 0b1000001100)]) 4 = some (⟨0, 0⟩, 4, true) := by
  decide
/-- SB1. -/
theorem test_sbox_s0_SB1 : after 0x00000016 (start [(0, bv 4 0b1001)]) 1 = some (⟨2, 0b11⟩, 0, false) := by
  decide
/-- SB2 and SB5. -/
theorem test_sbox_s1_SB2_SB5 :
    after 0x00100016 (start [(0, bv 4 0b1001)]) 1 = some (⟨2, 0b10⟩, 0, false) ∧
    after 0x00100016 (start [(0, bv 5 0b10011)]) 1 = some (⟨0, 0⟩, 4, true) := by decide
/-- The whole S-box table of 95_test_vectors.md, S0 and S1 for the inputs 0 to 15. -/
theorem test_sbox_table :
    (List.range 16).map (fun k => (substitute (bv 4 k) standardS0).toOption.map val) =
      [1, 3, 0, 2, 3, 1, 2, 0, 0, 3, 2, 1, 1, 3, 3, 2].map some ∧
    (List.range 16).map (fun k => (substitute (bv 4 k) standardS1).toOption.map val) =
      [0, 2, 1, 0, 2, 1, 3, 3, 3, 2, 0, 1, 1, 0, 0, 3].map some := by decide
/-- KC3: the second destination is the key. -/
theorem test_keygen_KC3 :
    after 0x00000017 (start [(0, bv 10 0b1010000010)]) 1 = some (⟨8, 0b10100100⟩, 0, false) ∧
    after 0x00000017 (start [(0, bv 10 0b1010000010)]) 0 = some (⟨8, 0b01000011⟩, 0, false) := by decide
/-- KC5: an 8-element key. -/
theorem test_keygen_KC5 :
    after 0x00020017 (start [(0, bv 8 0b10100000)]) 1 = some (⟨0, 0⟩, 4, true) := by decide
/-- RC1. -/
theorem test_round_RC1 :
    after 0x00002138 (start [(1, bv 4 0b1101), (2, bv 8 0b10100100)]) 3 = some (⟨4, 0b1111⟩, 0, false) := by
  decide
/-- RC3 and RC6: the order of the two checks. -/
theorem test_round_RC3_RC6 :
    after 0x00002138 (start [(1, bv 4 0b1101), (2, bv 7 0b1010010)]) 3 = some (⟨0, 0⟩, 2, true) ∧
    after 0x00002138 (start [(1, bv 3 0b110), (2, bv 7 0b1010010)]) 3 = some (⟨0, 0⟩, 4, true) := by
  decide
/-- EC1. -/
theorem test_encrypt_EC1 :
    after 0x00001029 (start [(0, bv 8 0b10010111), (1, bv 10 0b1010000010)]) 2 =
      some (⟨8, 0b00111000⟩, 0, false) := by decide
/-- EN1 under `L2_R2`. -/
theorem test_encrypt_EN1_literal_order :
    encrypt ⟨Tables.standard, .l2r2⟩ (bv 8 0b10010111) (bv 10 0b1010000010) = .ok (bv 8 0b01101000) := by
  decide
/-- EC2, and EC9: an illegal LEN. -/
theorem test_decrypt_EC2_EC9 :
    after 0x0000123A (start [(2, bv 8 0b00111000), (1, bv 10 0b1010000010)]) 3 =
      some (⟨8, 0b10010111⟩, 0, false) ∧
    after 0x0000102A ((start [(1, bv 10 0b1010000010)]).setVReg 0 ⟨11, 0⟩) 2 =
      some (⟨0, 0⟩, 4, true) := by decide

/-! ### Host accesses, reset, host side -/

/-- Host trace steps 20, 22, 24 and 26: implemented bits read back, and a command clears the bits above
LEN. -/
theorem test_host_trace_masks :
    (match serveAll [hostWrite 0x0C 0xFFFFFFFF, hostWrite 0x10 0xFFFFFFFF, hostWrite 0x14 0x0004FFFA,
        cmdWrite 0x00000124, hostRead 0x0C, hostRead 0x10, hostRead 0x14, hostRead 0x18] State.reset with
      | .next t => newReads State.reset t
      | _ => []) = [0x000F00FF, 0x000F03FF, 0x000403FA, 0x0004000A] := by decide

/-- Host trace steps 27 to 34 and 38, 43: FAULT is sticky and cleared by bit 8, ERR is not writable. -/
theorem test_host_trace_status :
    (match serveAll [hostWrite 0x10 0x000F03FF, cmdWrite 0x00000034, hostRead 0x04,
        hostWrite 0x04 0x000000FF, hostRead 0x04, cmdWrite 0, hostRead 0x04, hostWrite 0x04 0xFFFFFFFF,
        hostRead 0x04, hostRead 0x06, cmdWrite 0xFF00000F, hostRead 0x00, hostRead 0x04] State.reset with
      | .next t => newReads State.reset t
      | _ => []) = [0x104, 0x104, 0x100, 0, 0, 0xFF00000F, 0x105] := by decide

theorem test_reset_event_clears :
    (match serveEvent (.reset (some (.write 0 4 0))) ((start [(3, bv 4 5)]).recordFailure .illegalCommand)
      with | .next t => decide (t = State.reset) | _ => false) = true := by decide

/-- SC1: 564 matches the first pair, and 563 does not. -/
theorem test_isMatch_SC1 :
    isMatch Config.default (bv 8 0b00000111) (bv 8 0b01100101) 564 = true ∧
    isMatch Config.default (bv 8 0b00000111) (bv 8 0b01100101) 563 = false := by decide

theorem test_parse_refuses_other_characters : parseBits "0102".toList = .error .invalidBitValue := by
  decide

theorem test_assemble_keygen : assemble ["keygen", "v6", "v7", "v0"] = some (.keygen 6 7 0) := by decide
theorem test_assemble_mov : (assemble ["mov", "v2", "v1"]).map encode = some 0x00000124 := by decide

theorem test_platform_delivers_the_window_only :
    (Platform.mk 0x4000 #v[0, 1, 2, 3] true [7]).deliver
      [⟨1, 0x4004, 4, none⟩, ⟨1, 0x4040, 4, none⟩, ⟨7, 0x4000, 4, none⟩,
       ⟨1, 0x4000, 4, some #v[0x29, 0x10, 0, 0]⟩] =
      some [hostRead 0x04, cmdWrite 0x00001029] := by decide

end Sys2Proof.Tests
end

