-- ==== Sys2Proof/Tests/Witnesses.lean ====
section
/-!
SUPPORT. For each obligation with hypotheses, a concrete state and operands that meet them, one for each
clause at a boundary of its range. The expected results of the steps are in Slice0.lean.
-/

namespace Sys2Proof.Tests

open Sys2Proof.Machine Sys2Proof.Reference

/-- Vectors of the lengths the commands ask for: 8, 10, 4, 8, 5, 0 and 4 in v0 to v6, an illegal LEN of
11 in v7, and a user table of two entries. -/
def sample : State :=
  (((start [(0, bv 8 0b10010111), (1, bv 10 0b1010000010), (2, bv 4 0b1101), (3, bv 8 0b10100100),
    (4, bv 5 0b10000), (6, bv 4 0b0110)]).setVReg 7 ⟨11, 0x3FF⟩).setTbl0 0x00000041).setTbl1 ⟨2, 0, 0⟩

/-- The sample with these events to come. -/
def coming (es : List BusEvent) : State := sample.setInputs es

theorem sample_wellFormed : sample.cfg.WellFormed := by decide

/-! ### Reset, the step, and the bus -/

theorem witness_ResetLoadsEveryRegister :
    (coming [.reset (some (.write 0 4 0x1029))]).inputs = .reset (some (.write 0 4 0x1029)) :: [] := rfl

theorem witness_EveryStepKeepsTheInvariant :
    ∃ s t : State, s.Inv ∧ s.inputs ≠ [] ∧ step s = .next t :=
  ⟨coming [cmdWrite 0x1029], _, by decide, by decide, rfl⟩

theorem witness_IdleCoreKeepsItsState : sample.inputs = [] := rfl

theorem witness_StepRunsTheDecodedCommand :
    (coming [cmdWrite 0x1029]).inputs = .access (.write 0x00 4 0x1029) :: [] ∧
    decode 0x1029 = .ok (.encrypt 2 0 1) := by decide

theorem witness_IllegalWordsAreRecorded :
    (coming [cmdWrite 0xB]).inputs = .access (.write 0x00 4 0xB) :: [] ∧ legalWord 0xB = false ∧
    legalWord 0x01000000 = false ∧ legalWord 0x00600011 = false ∧ legalWord 0x00000081 = false ∧
    legalWord 0x00020123 = false ∧ legalWord 0xA = true := by decide

theorem witness_StepsServeTheQueueInOrder :
    (coming [cmdWrite 0x1029, hostRead 0x18, .reset none, hostRead 0x04]).inputs =
      [cmdWrite 0x1029, hostRead 0x18] ++ [.reset none, hostRead 0x04] := rfl

theorem witness_HostReadsReturnTheRegister :
    (∀ off : BitVec 6, (coming [hostRead off]).inputs = .access (.read off 4) :: []) ∧
    (0x00 : BitVec 6).toNat % 4 = 0 ∧ (0x04 : BitVec 6).toNat % 4 = 0 ∧ (0x08 : BitVec 6).toNat % 4 = 0 ∧
    (0x0C : BitVec 6).toNat % 4 = 0 ∧ (0x10 : BitVec 6).toNat = 0x10 + 4 * (0 : VIdx).val ∧
    (0x2C : BitVec 6).toNat = 0x10 + 4 * (7 : VIdx).val ∧ 0x30 ≤ (0x30 : BitVec 6).toNat ∧
    (0x3C : BitVec 6).toNat % 4 = 0 :=
  ⟨fun _ => rfl, by decide⟩

theorem witness_HostWritesStoreTheRegister :
    (∀ (off : BitVec 6) (w : Word),
      (coming [hostWrite off w]).inputs = .access (.write off 4 w) :: []) ∧
    (0x04 : BitVec 6) ≠ 0x00 ∧ (0x3C : BitVec 6).toNat % 4 = 0 ∧ (0x100 : Word).toNat / 2 ^ 8 % 2 = 1 ∧
    (0xFF : Word).toNat / 2 ^ 8 % 2 = 0 ∧ (0x2C : BitVec 6).toNat = 0x10 + 4 * (7 : VIdx).val ∧
    (0x30 : BitVec 6).toNat ≠ 0x10 + 4 * (7 : VIdx).val :=
  ⟨fun _ _ => rfl, by decide⟩

theorem witness_MisalignedAccessHasNoEffect :
    ((0x06 : BitVec 6).toNat % 4 ≠ 0 ∧
      (coming [hostRead 0x06]).inputs = .access (.read 0x06 4) :: []) ∧
    ((2 : Nat) ≠ 4 ∧ (coming [.access (.write 0x10 2 5)]).inputs = .access (.write 0x10 2 5) :: []) := by
  decide

theorem witness_WritesReadBackMasked :
    windowReg 0x2C ≠ .cmd ∧ windowReg 0x2C ≠ .status ∧ windowReg 0x0C ≠ windowReg 0x2C ∧
    (∃ t, serve (.write 0x2C 4 0xFFFFFFFF) sample = .next t) ∧ (0x2C : BitVec 6).toNat % 4 = 0 :=
  ⟨by decide, by decide, by decide, ⟨_, rfl⟩, by decide⟩

theorem witness_AccessesAreIdempotentExceptCommands :
    (∃ t, serve (.read 0x10 4) sample = .next t) ∧
    (∃ t u, windowReg 0x04 ≠ .cmd ∧ serve (.write 0x04 4 0x100) sample = .next t ∧
      serve (.write 0x04 4 0x100) t = .next u) :=
  ⟨⟨_, rfl⟩, ⟨_, _, by decide, rfl, rfl⟩⟩

theorem witness_WindowShowsEveryRegister :
    ∃ s t : State, s ≠ t ∧ (observe s).registers = (observe t).registers :=
  ⟨sample, coming [hostRead 0], by decide, by decide⟩

/-! ### STATUS and vector registers -/

theorem witness_OnlyTheseStepsWriteStatus :
    (∃ t, step (coming [cmdWrite 0xB]) = .next t ∧ t.err ≠ 0) ∧
    (∃ t, step (coming [cmdWrite 0x1029]) = .next t ∧ t.err = 0) ∧
    (∃ t, step ((coming [hostWrite 0x04 0x100]).setFault true) = .next t ∧ t.fault = false) ∧
    (∃ t, step (coming [.reset none]) = .next t) ∧ (∃ t, step (coming [hostWrite 0x05 0x100]) = .next t) :=
  ⟨⟨_, rfl, by decide⟩, ⟨_, rfl, by decide⟩, ⟨_, rfl, rfl⟩, ⟨_, rfl⟩, ⟨_, rfl⟩⟩

theorem witness_FaultRecordsAnyFailureOfARun :
    sample.fault = false ∧ EndsClean (serveAll ([0x1029, 0].map cmdWrite) sample) ∧
    ∃ t, serveAll ([0xB, 0].map cmdWrite) sample = .next t ∧ t.err = 0 ∧ t.fault = true :=
  ⟨rfl, ⟨_, rfl, by decide⟩, ⟨_, rfl, by decide, by decide⟩⟩

theorem witness_CommandsIgnoreTheStatus :
    ∃ (s s' t t' : State), s ≠ s' ∧ s.v = s'.v ∧ s.tbl0 = s'.tbl0 ∧ s.tbl1 = s'.tbl1 ∧ s.cfg = s'.cfg ∧
      exec (.encrypt 2 0 1) s = .next t ∧ exec (.encrypt 2 0 1) s' = .next t' :=
  ⟨sample, sample.recordFailure .lengthMismatch, _, _, by decide, rfl, rfl, rfl, rfl, rfl, rfl⟩

/-- Each code of `reportedCode` is reached, and each boundary of its lengths. -/
theorem witness_EveryCommandReportsItsFirstError :
    sample.cfg.WellFormed ∧ reportedCode (.encrypt 5 0 1) sample = 0 ∧
    reportedCode (.permuteP8 5 0) sample = 1 ∧ reportedCode (.permuteTbl 5 0) sample = 0 ∧
    reportedCode (.permuteTbl 5 5) sample = 1 ∧ reportedCode (.xor 5 0 1) sample = 2 ∧
    reportedCode (.xor 5 0 7) sample = 4 ∧ reportedCode (.split 3 3 7) sample = 5 ∧
    reportedCode (.split 3 5 4) sample = 4 ∧ reportedCode (.rotl 5 4 5) sample = 0 ∧
    reportedCode (.rotl 5 4 6) sample = 4 ∧ reportedCode (.concat 5 4 4) sample = 0 ∧
    reportedCode (.concat 5 0 2) sample = 4 ∧ reportedCode (.round 5 2 1) sample = 2 ∧
    reportedCode (.round 5 4 4) sample = 4 ∧ reportedCode (.keygen 5 5 1) sample = 5 ∧
    legalWord 0xB = false ∧ decode 0x1029 = .ok (.encrypt 2 0 1) := by decide

theorem witness_RegistersReadAsVectors :
    10 < lenOf sample 7 ∧ lenOf sample 1 ≤ 10 ∧ lenOf sample 1 = 10 ∧ lenOf sample 5 = 0 ∧
    sameVector (sample.vreg 2) ((sample.setVReg 2 ⟨4, 0x3FD⟩).vreg 2) ∧
    sample.vreg 2 ≠ (sample.setVReg 2 ⟨4, 0x3FD⟩).vreg 2 := by
  refine ⟨by decide, by decide, by decide, by decide, ⟨by decide, ?_⟩, by decide⟩
  intro k hk
  have : k < 4 := hk
  interval_cases k <;> decide

theorem witness_BitsAboveLenTakeNoPart :
    ∃ s s' t t' : State, s ≠ s' ∧ (∀ j, sameVector (s.vreg j) (s'.vreg j)) ∧ s.tbl0 = s'.tbl0 ∧
      s.tbl1 = s'.tbl1 ∧ s.cfg = s'.cfg ∧ exec (.rotl 3 5 0) s = .next t ∧
      exec (.rotl 3 5 0) s' = .next t' := by
  refine ⟨sample, sample.setVReg 5 ⟨0, 0x3FF⟩, _, _, by decide, fun j => ?_, rfl, rfl, rfl, rfl, rfl⟩
  by_cases h : j = 5
  · subst h; exact ⟨by decide, fun k hk => absurd hk (by simp [show (sample.vreg 5).len = 0 by decide])⟩
  · rw [State.setVReg_vreg_other sample _ h]; exact ⟨rfl, fun _ _ => rfl⟩

theorem witness_CommandsWriteCanonicalRegisters :
    ∃ t, sample.cfg.WellFormed ∧ exec (.keygen 2 3 1) sample = .next t ∧ t.err = 0 ∧
      (3 : VIdx) ∈ destsOf (.keygen 2 3 1) :=
  ⟨_, by decide, rfl, by decide, by decide⟩

theorem witness_CommandsWriteOnlyTheirDestinations : ∃ t, exec (.split 2 3 1) sample = .next t := ⟨_, rfl⟩

theorem witness_ConfigurationNeverChanges : ∃ t, step (coming [.reset none]) = .next t := ⟨_, rfl⟩

/-! ### Decoding and encoding -/

theorem witness_DecodeOfEncodeIsTheCommand :
    (Instr.split 7 0 7).wf = true ∧ (Instr.keygen 0 7 0).wf = true ∧ (Instr.rotl 7 7 15).wf = true := by
  decide

theorem witness_EncodeOfDecodeClearsUnusedFields :
    decode 0x00F71029 = .ok (.encrypt 2 0 1) ∧ encode (.encrypt 2 0 1) ≠ 0x00F71029 := by decide

theorem witness_UnusedFieldsAreIgnored :
    decode 0x00001029 = .ok (.encrypt 2 0 1) ∧
    (0x00001029 : Word) &&& usedMask (.encrypt 2 0 1) = (0x00F71029 : Word) &&& usedMask (.encrypt 2 0 1) := by
  decide

theorem witness_OpcodeRowsAreDisjoint :
    decode 0x00100016 = .ok (.sboxS1 1 0) ∧
    (0x00100016 : Word) &&& (Instr.sboxS1 1 0).row.mask = (Instr.sboxS1 1 0).row.pattern ∧
    (0x00100016 : Word) &&& (Instr.sboxS1 7 7).row.mask = (Instr.sboxS1 7 7).row.pattern := by decide

theorem witness_PseudoInstructionsDoWhatTheyName :
    vec sample 0 = .ok (bv 8 0b10010111) ∧ (bv 8 0b10010111).length % 2 = 0 := by decide

/-! ### The commands -/

theorem witness_NopOnlyClearsErr :
    (opField 0x00FFFFF0 = 0 ∧ rsvField 0x00FFFFF0 = 0) ∧ (opField 0x01000000 = 0 ∧ rsvField 0x01000000 ≠ 0) := by
  decide

/-- A word and operands for each clause of `UnaryWords`, `BinaryWords`, `PairWords` and `ReservedImm`. -/
theorem witness_words :
    (rsvField 0x000FF071 = 0 ∧ opField 0x000FF071 = 1 ∧ immField 0x000FF071 = 0 ∧
      (rdField 0x000FF071).toNat = (7 : VIdx).val ∧ (rs1Field 0x000FF071).toNat = (0 : VIdx).val) ∧
    7 < (rdField 0x00000081).toNat ∧
    (rsvField 0x00007772 = 0 ∧ opField 0x00007772 = 2 ∧ (rdField 0x00007772).toNat = (7 : VIdx).val ∧
      (rs1Field 0x00007772).toNat = (7 : VIdx).val ∧ (rs2Field 0x00007772).toNat = (7 : VIdx).val) ∧
    7 < (rs2Field 0x00008022).toNat ∧
    ((7 : VIdx) ≠ 0 ∧ opField 0x00070103 = 3 ∧ (rdField 0x00070103).toNat = (0 : VIdx).val ∧
      (rd2Field 0x00070103).toNat = (7 : VIdx).val ∧ (rs1Field 0x00070103).toNat = (1 : VIdx).val) ∧
    rdField 0x00020123 = rd2Field 0x00020123 ∧
    (immField 0x00600011 = 6 ∧ 8 ≤ (immField 0x00800011).toNat ∧ 2 ≤ (immField 0x00200016).toNat) ∧
    (immField 0x00F00234).toNat = (15 : Fin 16).val := by decide

theorem witness_PermuteRearrangesByItsTable :
    sample.cfg.WellFormed ∧ 10 < lenOf sample 7 ∧
    vec sample 0 = .ok (bv 8 0b10010111) ∧ (∃ p ∈ sample.cfg.tables.p8, p < 1 ∨ 8 < p) ∧
    (∀ p ∈ sample.cfg.tables.ip, 1 ≤ p ∧ p ≤ 8) ∧ (∀ p ∈ sample.cfg.tables.ep, 1 ≤ p ∧ p ≤ 8) ∧
    vec sample 2 = .ok (bv 4 0b1101) ∧ (∀ p ∈ sample.cfg.tables.p4, 1 ≤ p ∧ p ≤ 4) ∧
    vec sample 1 = .ok (bv 10 0b1010000010) ∧ (∀ p ∈ sample.cfg.tables.p10, 1 ≤ p ∧ p ≤ 10) ∧
    (∀ p ∈ sample.cfg.tables.p8, 1 ≤ p ∧ p ≤ 10) ∧ (∀ p ∈ sample.cfg.tables.ipinv, 1 ≤ p ∧ p ≤ 8) ∧
    tableEntries sample = [1, 4] ∧ sample.tbl1.tlen.toNat ≤ 10 ∧
    10 < (sample.setTbl1 ⟨11, 0, 0⟩).tbl1.tlen.toNat ∧ (sample.setTbl1 ⟨10, 0, 0⟩).tbl1.tlen.toNat ≤ 10 := by
  decide

theorem witness_SplitWritesBothHalves :
    (2 : VIdx) ≠ 3 ∧ 10 < lenOf sample 7 ∧ vec sample 4 = .ok (bv 5 0b10000) ∧
    (bv 5 0b10000).length % 2 = 1 ∧ vec sample 5 = .ok [] ∧ vec sample 1 = .ok (bv 10 0b1010000010) ∧
    (bv 10 0b1010000010).length % 2 = 0 := by decide

theorem witness_RotlRotatesByItsAmount :
    10 < lenOf sample 7 ∧ vec sample 4 = .ok (bv 5 0b10000) ∧ (bv 5 0b10000).length < (6 : Fin 16).val ∧
    (5 : Fin 16).val ≤ (bv 5 0b10000).length ∧ (0 : Fin 16).val ≤ (bv 5 0b10000).length := by decide

theorem witness_XorMixesElementwise :
    10 < lenOf sample 7 ∧ vec sample 2 = .ok (bv 4 0b1101) ∧ vec sample 6 = .ok (bv 4 0b0110) ∧
    (bv 4 0b1101).length = (bv 4 0b0110).length ∧ vec sample 4 = .ok (bv 5 0b10000) ∧
    (bv 4 0b1101).length ≠ (bv 5 0b10000).length := by decide

theorem witness_ConcatJoinsItsSources :
    10 < lenOf sample 7 ∧ vec sample 4 = .ok (bv 5 0b10000) ∧
    (bv 5 0b10000).length + (bv 5 0b10000).length ≤ 10 ∧ vec sample 1 = .ok (bv 10 0b1010000010) ∧
    10 < (bv 10 0b1010000010).length + (bv 5 0b10000).length := by decide

theorem witness_SboxLooksUpItsBox :
    10 < lenOf sample 7 ∧ vec sample 4 = .ok (bv 5 0b10000) ∧ (bv 5 0b10000).length ≠ 4 ∧
    vec sample 2 = .ok (bv 4 0b1101) ∧ (bv 4 0b1101).length = 4 := by decide

theorem witness_KeygenWritesBothSubkeys :
    sample.cfg.WellFormed ∧ (2 : VIdx) ≠ 3 ∧ 10 < lenOf sample 7 ∧ vec sample 0 = .ok (bv 8 0b10010111) ∧
    (bv 8 0b10010111).length ≠ 10 ∧ vec sample 1 = .ok (bv 10 0b1010000010) ∧
    (bv 10 0b1010000010).length = 10 := by decide

theorem witness_RoundComputesTheRoundFunction :
    sample.cfg.WellFormed ∧ 10 < lenOf sample 7 ∧ vec sample 2 = .ok (bv 4 0b1101) ∧
    vec sample 3 = .ok (bv 8 0b10100100) ∧ (bv 4 0b1101).length = 4 ∧ (bv 8 0b10100100).length = 8 ∧
    (bv 8 0b10100100).length ≠ 4 ∧ (bv 4 0b1101).length ≠ 8 := by decide

/-- For `encrypt` and for `decrypt`. -/
theorem witness_Ciphers :
    sample.cfg.WellFormed ∧ 10 < lenOf sample 7 ∧ vec sample 0 = .ok (bv 8 0b10010111) ∧
    vec sample 1 = .ok (bv 10 0b1010000010) ∧ (bv 8 0b10010111).length = 8 ∧
    (bv 10 0b1010000010).length = 10 ∧ vec sample 3 = .ok (bv 8 0b10100100) ∧
    (bv 8 0b10100100).length ≠ 10 ∧
    (bv 8 0b10100100).length = 8 ∧ (bv 8 0b01000011).length = 8 ∧ vec sample 2 = .ok (bv 4 0b1101) ∧ (bv 4 0b1101).length ≠ 8 := by
  decide

/-! ### Laws and the host's side -/

theorem witness_DecryptInvertsEncrypt :
    Config.default.WellFormed ∧ Config.default.finalHalfOrder = .r2l2 ∧ (bv 8 0).length = 8 ∧
    (bv 10 0).length = 10 := by decide

theorem witness_EncryptThenDecryptCommandsRestoreTheBlock :
    sample.cfg.WellFormed ∧ sample.cfg.finalHalfOrder = .r2l2 ∧ vec sample 0 = .ok (bv 8 0b10010111) ∧
    (bv 8 0b10010111).length = 8 ∧ vec sample 1 = .ok (bv 10 0b1010000010) ∧
    (bv 10 0b1010000010).length = 10 ∧ (0 : VIdx) ≠ 1 := by decide

theorem witness_KeyScheduleFromPrimitives :
    (sample.setV 0 (bv 10 0b1010000010)).cfg.WellFormed ∧
    vec (sample.setV 0 (bv 10 0b1010000010)) 0 = .ok (bv 10 0b1010000010) ∧
    (bv 10 0b1010000010).length = 10 := by decide

theorem witness_EncryptionFromPrimitives :
    sample.cfg.WellFormed ∧ sample.cfg.finalHalfOrder = .r2l2 ∧ vec sample 0 = .ok (bv 8 0b10010111) ∧
    (bv 8 0b10010111).length = 8 ∧ vec sample 1 = .ok (bv 10 0b1010000010) ∧
    (bv 10 0b1010000010).length = 10 := by decide

/-- A configuration for each side of R33. -/
theorem witness_OnlyWellFormedTablesAreAccepted :
    State.resetWith? Config.default = some State.reset ∧
    State.resetWith? ⟨{ Tables.standard with p4 := [2, 4, 3] }, .r2l2⟩ = none := by decide

theorem witness_BitVectorLaws :
    (5 ≤ (bv 5 0b10000).length ∧ 0 < (bv 5 0b10000).length) ∧ (bv 4 9).length = (bv 4 6).length ∧
    splitHalf (bv 4 9) = .ok (bv 2 2, bv 2 1) := by decide

theorem witness_ParallelSearchReportsTheSameKey :
    ∀ k, (∃ part ∈ [List.range' 512 512, List.range 512], k ∈ part) ↔ k < 1024 := by
  intro k; simp; omega

theorem witness_DriverReportsTheSearchResult :
    sample.cfg.WellFormed ∧ (bv 8 0b00000111).length = 8 ∧ (bv 8 0b01100101).length = 8 := by decide

theorem witness_TheTwoChecksAgree :
    Config.default.WellFormed ∧ Config.default.finalHalfOrder = .r2l2 ∧ (bv 8 0b00000111).length = 8 ∧
    encrypt Config.default (bv 8 0b00000111) (candidate 564) = .ok (bv 8 0b01100101) := by decide

theorem witness_TextLoadsAsAVector :
    (∃ ch ∈ "012".toList, ch ≠ '0' ∧ ch ≠ '1') ∧ (∀ ch ∈ "0101".toList, ch = '0' ∨ ch = '1') ∧
    ((bv 10 0x3FF).length ≤ 10 ∧ (0x2C : BitVec 6).toNat = 0x10 + 4 * (7 : VIdx).val ∧
      (0x000A03FF : Word).toNat = (bv 10 0x3FF).length * 2 ^ 16 + val (bv 10 0x3FF)) :=
  ⟨⟨'2', by simp, by decide, by decide⟩, by simp, by decide, by decide, rfl⟩

theorem witness_PlatformMapsAddressesAndBytes :
    (0x4000 ≤ 0x403F ∧ 0x403F < 0x4000 + 64) ∧ (0x3FFF < 0x4000 ∨ 0x4000 + 64 ≤ 0x3FFF) ∧
    (0x4040 < 0x4000 ∨ 0x4000 + 64 ≤ 0x4040) ∧ (#v[3, 2, 1, 0] : Vector (Fin 4) 4).toList.Nodup :=
  ⟨by omega, by omega, by omega, by decide⟩

end Sys2Proof.Tests
end

section
/-!
PROOFS. The state of one core (10_state.md): the reset values (R39), the vector a register holds (R22), and
the independence of every command from an earlier command's status (R40).
-/

namespace Sys2Proof.Machine

open Sys2Proof.Reference

/-! ### Reset (R39, R190) -/

@[simp] theorem State.resetOf_vreg (c : Config) (i : VIdx) : (State.resetOf c).vreg i = ⟨0, 0⟩ := by
  simp [State.vreg, State.resetOf]

@[simp] theorem resetCore_vreg (s : State) (i : VIdx) : (resetCore s).vreg i = ⟨0, 0⟩ :=
  State.resetOf_vreg s.cfg i

/-- The step that serves a reset, whatever access it abandons. -/
theorem step_reset {s : State} {a : Option Access} {rest : List BusEvent}
    (h : s.inputs = .reset a :: rest) : step s = .next (resetCore (s.setInputs rest)) := by
  rw [step, stepEvent, h]
  rfl

/-- Every register reads 0 after reset, under any configuration. -/
theorem readReg_resetOf (c : Config) (r : WindowReg) : readReg (State.resetOf c) r = 0 := by
  cases r with
  | v i => rw [readReg, State.resetOf_vreg]; decide
  | status => exact (by decide : statusWord 0 false = 0)
  | tbl1 => exact (by decide : Tbl1.word ⟨0, 0, 0⟩ = 0)
  | cmd | tbl0 | reserved => rfl

/-- Settles O1: the step is `resetCore`, whose fields are those of `State.resetOf`. -/
theorem resetLoadsEveryRegister : Obligations.ResetLoadsEveryRegister := by
  unfold Obligations.ResetLoadsEveryRegister
  refine ⟨fun s a rest h => ⟨_, step_reset h, fun i => ?_, ?_⟩, fun off => ?_, rfl⟩
  · rw [resetCore_vreg]
    exact ⟨rfl, rfl⟩
  · exact ⟨rfl, rfl, rfl, rfl, rfl, rfl, rfl, rfl, rfl, rfl⟩
  · exact readReg_resetOf _ _

/-! ### The vector a register holds (R22) -/

theorem VReg.getElem?_bits {r : VReg} {j : Nat} (h : j < r.len.toNat) :
    r.bits[j]? = some (r.data.getLsbD (r.len.toNat - 1 - j)) := by
  simp [VReg.bits, h]

/-- Bit `k` of the value is element `n-1-k`, which is `DATA[k]`. -/
theorem VReg.val_bits (r : VReg) : val r.bits = r.data.toNat % 2 ^ r.len.toNat := by
  refine Nat.eq_of_testBit_eq fun k => ?_
  rw [Nat.testBit_mod_two_pow]
  by_cases hk : k < r.len.toNat
  · have hbit := val_testBit r.bits (r.len.toNat - 1 - k) (by rw [VReg.bits_length]; omega)
    have hpos : r.len.toNat - 1 - (r.len.toNat - 1 - k) = k := by omega
    rw [VReg.bits_length, hpos, List.getD, VReg.getElem?_bits (by omega), hpos] at hbit
    simpa [hk, BitVec.testBit_toNat] using hbit
  · have hlt : val r.bits < 2 ^ k :=
      (val_lt r.bits).trans_le (Nat.pow_le_pow_right (by decide) (by rw [VReg.bits_length]; omega))
    simp [hk, Nat.testBit_lt_two_pow hlt]

/-- The bits above LEN take no part in the vector. -/
theorem VReg.bits_congr {r r' : VReg} (h : sameVector r r') : r.bits = r'.bits := by
  obtain ⟨hlen, hdata⟩ := h
  unfold VReg.bits
  rw [← hlen]
  refine List.map_congr_left fun j hj => hdata _ ?_
  have := List.mem_range.mp hj
  omega

/-- Registers that hold the same vector read alike, an illegal LEN included. -/
theorem vec_sameVector {s s' : State} {i : VIdx} (h : sameVector (s.vreg i) (s'.vreg i)) :
    vec s i = vec s' i := by
  rw [vec, vec, VReg.bits_congr h, h.1]

/-- Settles O19, by the two outcomes of a source read. -/
theorem registersReadAsVectors : Obligations.RegistersReadAsVectors := by
  unfold Obligations.RegistersReadAsVectors lenOf
  intro s i
  refine ⟨fun hbad => ?_, fun hok => ?_, fun s' => vec_sameVector⟩
  · obtain ⟨hle, -⟩ | ⟨-, herr⟩ := vec_cases s i
    · omega
    · exact herr
  · obtain ⟨-, hvec⟩ | ⟨hgt, -⟩ := vec_cases s i
    · exact ⟨_, hvec, VReg.bits_length _, fun _ => VReg.getElem?_bits, VReg.val_bits _⟩
    · omega

/-! ### Commands and the status (R40) -/

/-- What a command reads is the same in both states: the vectors in the registers, the user table and the
configuration. -/
structure SameOperands (s s' : State) : Prop where
  vec       : ∀ i, vec s i = vec s' i
  userTable : userTable s = userTable s'
  cfg       : s.cfg = s'.cfg

theorem userTable_congr {s s' : State} (h0 : s.tbl0 = s'.tbl0) (h1 : s.tbl1 = s'.tbl1) :
    userTable s = userTable s' := by
  simp only [userTable, userEntry, h0, h1]

theorem SameOperands.of_registers {s s' : State} (hv : s.v = s'.v) (h0 : s.tbl0 = s'.tbl0)
    (h1 : s.tbl1 = s'.tbl1) (hc : s.cfg = s'.cfg) : SameOperands s s' where
  vec i := vec_congr (by rw [State.vreg, State.vreg, hv])
  userTable := userTable_congr h0 h1
  cfg := hc

/-- A command commits the same results, or the same error, whenever its operands are the same: it reads
nothing else, ERR, FAULT and CMDREG included. -/
theorem exec_commit_sameOperands (i : Instr) {s s' : State} (h : SameOperands s s') :
    ∃ r, exec i s = commit s r ∧ exec i s' = commit s' r := by
  cases i
  case nop => exact ⟨.ok [], rfl, rfl⟩
  all_goals
    refine ⟨_, rfl, ?_⟩
    simp only [h.vec, h.userTable, h.cfg]
    rfl

theorem State.writeAll_v_congr (ws : List (VIdx × Bits)) {s s' : State} (h : s.v = s'.v) :
    (s.writeAll ws).v = (s'.writeAll ws).v := by
  induction ws generalizing s s' with
  | nil => exact h
  | cons w ws ih => exact ih (by simp only [State.setV, State.setVReg_v, h])

/-- The registers and the code that a commit leaves depend on the registers and the results alone. -/
theorem commit_congr {s s' t t' : State} {r : Except Error (List (VIdx × Bits))} (hv : s.v = s'.v)
    (ht : commit s r = .next t) (ht' : commit s' r = .next t') : t.v = t'.v ∧ t.err = t'.err := by
  cases r with
  | ok ws => cases ht; cases ht'; exact ⟨State.writeAll_v_congr ws hv, rfl⟩
  | error e => cases ht; cases ht'; exact ⟨hv, rfl⟩

/-- No error has the code of success (R27). -/
theorem Error.code_ne_zero (e : Error) : e.code ≠ 0 := by
  cases e <;> decide

/-- FAULT after a command: ERR alone says whether it is kept or set (R177, R178). -/
theorem exec_fault {i : Instr} {s t : State} (h : exec i s = .next t) :
    (t.err = 0 → t.fault = s.fault) ∧ (t.err ≠ 0 → t.fault = true) := by
  obtain ⟨-, -, -, -, -, -, ⟨herr, hfault⟩ | ⟨e, herr, hfault, -⟩⟩ := exec_frame h
  · exact ⟨fun _ => hfault, fun hne => absurd herr hne⟩
  · exact ⟨fun h0 => absurd (herr.symm.trans h0) e.code_ne_zero, fun _ => hfault⟩

/-- Settles O17: both states have the same operands, so both commit the same results. -/
theorem commandsIgnoreTheStatus : Obligations.CommandsIgnoreTheStatus := by
  unfold Obligations.CommandsIgnoreTheStatus
  intro i s s' t t' hv h0 h1 hc ht ht'
  obtain ⟨r, hr, hr'⟩ := exec_commit_sameOperands i (.of_registers hv h0 h1 hc)
  obtain ⟨hregs, herr⟩ := commit_congr hv (hr ▸ ht) (hr' ▸ ht')
  exact ⟨hregs, herr, exec_fault ht⟩

end Sys2Proof.Machine
end

section
/-!
PROOFS. The register window and the consumer contract (20_memory.md): the words a read returns (R58), bus
errors (R55), idempotence (R60), text conversion and loading (R74), and the key search (R71 to R73, R75).
-/

namespace Sys2Proof.Machine

/-! ### The packed words as numbers (R25, R30, R58) -/

/-- A field laid above a value that fits below it: the two add up. -/
theorem toNat_packed {m k : Nat} (hi : BitVec m) {lo : Word} (hlo : lo.toNat < 2 ^ k)
    (hk : m + k ≤ 32) :
    (hi.setWidth 32 <<< k ||| lo).toNat = hi.toNat * 2 ^ k + lo.toNat := by
  have hfit : hi.toNat <<< k < 2 ^ 32 := by
    rw [Nat.shiftLeft_eq]
    calc hi.toNat * 2 ^ k < 2 ^ m * 2 ^ k := Nat.mul_lt_mul_of_pos_right hi.isLt (by positivity)
      _ = 2 ^ (m + k) := (pow_add 2 m k).symm
      _ ≤ 2 ^ 32 := Nat.pow_le_pow_right (by decide) hk
  rw [BitVec.toNat_or, BitVec.toNat_shiftLeft, BitVec.toNat_setWidth_of_le (by omega),
    Nat.mod_eq_of_lt hfit, ← Nat.shiftLeft_add_eq_or_of_lt hlo, Nat.shiftLeft_eq]

theorem statusWord_toNat (err : BitVec 4) (fault : Bool) :
    (statusWord err fault).toNat = fault.toNat * 2 ^ 8 + err.toNat := by
  have herr : (err.setWidth 32).toNat = err.toNat := BitVec.toNat_setWidth_of_le (by decide)
  rw [statusWord, toNat_packed _ (by omega) (by decide), herr, BitVec.toNat_ofBool]

theorem Tbl1.word_toNat (t : Tbl1) :
    t.word.toNat = t.tlen.toNat * 2 ^ 16 + t.entry10.toNat * 2 ^ 4 + t.entry9.toNat := by
  have h9 : (t.entry9.setWidth 32).toNat = t.entry9.toNat := BitVec.toNat_setWidth_of_le (by decide)
  have hlow := toNat_packed (k := 4) t.entry10 (lo := t.entry9.setWidth 32) (by omega) (by decide)
  rw [Tbl1.word, BitVec.or_assoc, toNat_packed _ (by omega) (by decide), hlow, h9, Nat.add_assoc]

theorem VReg.word_toNat (r : VReg) : r.word.toNat = r.len.toNat * 2 ^ 16 + r.data.toNat := by
  have hdata : (r.data.setWidth 32).toNat = r.data.toNat := BitVec.toNat_setWidth_of_le (by decide)
  rw [VReg.word, toNat_packed _ (by omega) (by decide), hdata]

/-! ### The register map by the value of the offset (R52, R53) -/

theorem windowReg_of_vregOffset {off : BitVec 6} {i : VIdx} (h : off.toNat = 0x10 + 4 * i.val) :
    windowReg off = .v i := by
  have hoff : off = BitVec.ofNat 6 (0x10 + 4 * i.val) := by
    rw [← h, BitVec.ofNat_toNat, BitVec.setWidth_eq]
  rw [hoff, windowReg_vreg]

theorem windowReg_reserved : ∀ off : BitVec 6, 0x30 ≤ off.toNat → windowReg off = .reserved := by
  decide

/-! ### One access (R55, R58, R59) -/

theorem step_event {s : State} {e : BusEvent} {rest : List BusEvent} (h : s.inputs = e :: rest) :
    step s = serveEvent e (s.setInputs rest) := by
  rw [step, stepEvent, h]

theorem serve_read {off : BitVec 6} (h : off.toNat % 4 = 0) (s : State) :
    serve (.read off 4) s = .next (s.pushReply ⟨false, some (memRead s off)⟩) :=
  if_pos (accessOk_iff.mpr ⟨h, rfl⟩)

theorem serve_write {off : BitVec 6} (h : off.toNat % 4 = 0) (hcmd : windowReg off ≠ .cmd) (w : Word)
    (s : State) :
    serve (.write off 4 w) s = .next ((storeReg s (windowReg off) w).pushReply ⟨false, none⟩) := by
  have hmem : memWrite s off w = .next (storeReg s (windowReg off) w) := by
    unfold memWrite
    split
    · contradiction
    · rfl
  rw [serve, if_pos (accessOk_iff.mpr ⟨h, rfl⟩), hmem]
  rfl

section BusError

variable {off : BitVec 6} {size : Nat} (h : off.toNat % 4 ≠ 0 ∨ size ≠ 4)

include h

theorem accessOk_false : ¬ accessOk off size = true := by
  rw [accessOk_iff]
  omega

theorem serve_read_busError (s : State) :
    serve (.read off size) s = .next (s.pushReply ⟨true, some 0⟩) := if_neg (accessOk_false h)

theorem serve_write_busError (w : Word) (s : State) :
    serve (.write off size w) s = .next (s.pushReply ⟨true, none⟩) := if_neg (accessOk_false h)

end BusError

/-- Settles O11: both accesses end with a bus error, and the reply is all that is recorded. -/
theorem misalignedAccessHasNoEffect : Obligations.MisalignedAccessHasNoEffect := by
  unfold Obligations.MisalignedAccessHasNoEffect
  intro s off size w rest hbad
  refine ⟨fun h => ?_, fun h => ?_⟩
  · exact (step_event h).trans (serve_read_busError hbad _)
  · exact (step_event h).trans (serve_write_busError hbad w _)

/-- Settles O9: the value is that of `memRead`, which the register map resolves at each offset. -/
theorem hostReadsReturnTheRegister : Obligations.HostReadsReturnTheRegister := by
  unfold Obligations.HostReadsReturnTheRegister
  intro s off rest h halign
  refine ⟨memRead s off, (step_event h).trans (serve_read halign _), ?_, ?_, ?_, ?_, ?_, ?_⟩
  · rintro rfl
    rw [memRead, windowReg_cmd, readReg]
  · rintro rfl
    rw [memRead, windowReg_status, readReg, statusWord_toNat]
  · rintro rfl
    rw [memRead, windowReg_tbl0, readReg]
  · rintro rfl
    rw [memRead, windowReg_tbl1, readReg, Tbl1.word_toNat]
  · intro i hoff
    rw [memRead, windowReg_of_vregOffset hoff, readReg, VReg.word_toNat]
  · intro hoff
    rw [memRead, windowReg_reserved off hoff, readReg]

/-! ### Idempotence (R60) -/

theorem serve_read_pushReply {s t : State} {off : BitVec 6} {size : Nat}
    (h : serve (.read off size) s = .next t) : ∃ r, t = s.pushReply r := by
  by_cases hok : off.toNat % 4 = 0 ∧ size = 4
  · obtain ⟨halign, rfl⟩ := hok
    rw [serve_read halign] at h
    cases h
    exact ⟨_, rfl⟩
  · rw [serve_read_busError (by omega)] at h
    cases h
    exact ⟨_, rfl⟩

theorem storeReg_pushReply (s : State) (a : Reply) (r : WindowReg) (w : Word) :
    storeReg (s.pushReply a) r w = (storeReg s r w).pushReply a := by
  cases r with
  | status => simp only [storeReg]; split <;> rfl
  | cmd | tbl0 | tbl1 | v i | reserved => rfl

theorem storeReg_idem (s : State) (r : WindowReg) (w : Word) :
    storeReg (storeReg s r w) r w = storeReg s r w := by
  cases r with
  | status => simp only [storeReg]; split <;> rfl
  | v i => simp [storeReg, State.setVReg]
  | cmd | tbl0 | tbl1 | reserved => rfl

/-- A repeated write of a register other than CMD adds a reply and changes nothing else. -/
theorem serve_write_twice {s t u : State} {off : BitVec 6} {w : Word} (hcmd : windowReg off ≠ .cmd)
    (ht : serve (.write off 4 w) s = .next t) (hu : serve (.write off 4 w) t = .next u) :
    ∃ r, u = t.pushReply r := by
  by_cases halign : off.toNat % 4 = 0
  · rw [serve_write halign hcmd] at ht hu
    cases ht
    cases hu
    exact ⟨_, by rw [storeReg_pushReply, storeReg_idem]⟩
  · rw [serve_write_busError (.inl halign)] at hu
    cases hu
    exact ⟨_, rfl⟩

/-- Settles O13; the vector 10 in `v0`, rotated once and twice, shows the last part. -/
theorem accessesAreIdempotentExceptCommands : Obligations.AccessesAreIdempotentExceptCommands := by
  unfold Obligations.AccessesAreIdempotentExceptCommands
  refine ⟨fun s t off size h => ?_, fun s t u off w hcmd ht hu => ?_, ?_⟩
  · obtain ⟨r, rfl⟩ := serve_read_pushReply h
    rfl
  · obtain ⟨r, rfl⟩ := serve_write_twice hcmd ht hu
    rfl
  · exact ⟨State.reset.setV 0 [true, false], _, _, rfl, rfl, by decide⟩

/-! ### Text conversion (R74) -/

theorem parseBits_error {cs : List Char} (h : ∃ ch ∈ cs, ch ≠ '0' ∧ ch ≠ '1') :
    parseBits cs = .error .invalidBitValue := by
  induction cs with
  | nil => simp at h
  | cons c cs ih =>
    by_cases hc : c ≠ '0' ∧ c ≠ '1'
    · simp [parseBits, parseChar, hc, bind, Except.bind]
    · have htail : ∃ ch ∈ cs, ch ≠ '0' ∧ ch ≠ '1' := by
        obtain ⟨ch, hmem, hbad⟩ := h
        obtain rfl | hmem := List.mem_cons.mp hmem
        · exact absurd hbad hc
        · exact ⟨ch, hmem, hbad⟩
      have hchar : ∃ b, parseChar c = .ok b := by
        by_cases h0 : c = '0'
        · exact ⟨false, if_pos h0⟩
        · exact ⟨true, by rw [parseChar, if_neg h0, if_pos (by tauto)]⟩
      obtain ⟨b, hb⟩ := hchar
      simp [parseBits, hb, ih htail, bind, Except.bind]

theorem parseChar_ok {c : Char} (h : c = '0' ∨ c = '1') : parseChar c = .ok (decide (c = '1')) := by
  obtain rfl | rfl := h <;> rfl

theorem parseBits_ok {cs : List Char} (h : ∀ ch ∈ cs, ch = '0' ∨ ch = '1') :
    parseBits cs = .ok (cs.map fun ch => decide (ch = '1')) := by
  induction cs with
  | nil => rfl
  | cons c cs ih =>
    obtain ⟨hc, hcs⟩ := List.forall_mem_cons.mp h
    simp [parseBits, parseChar_ok hc, ih hcs, bind, Except.bind, pure, Except.pure]

/-- Rendering a parsed string gives it back. -/
theorem renderBits_map_eq_one {cs : List Char} (h : ∀ ch ∈ cs, ch = '0' ∨ ch = '1') :
    renderBits (cs.map fun ch => decide (ch = '1')) = cs := by
  rw [renderBits, List.map_map]
  refine (List.map_congr_left fun ch hmem => ?_).trans (List.map_id cs)
  obtain rfl | rfl := h ch hmem <;> rfl

/-! ### Loading a vector (R59, R91) -/

theorem val_lt_of_length_le_ten {x : Bits} (h : x.length ≤ 10) : val x < 2 ^ 10 :=
  (val_lt x).trans_le (Nat.pow_le_pow_right (by decide) h)

theorem loadWord_toNat {x : Bits} (h : x.length ≤ 10) :
    (loadWord x).toNat = x.length * 2 ^ 16 + val x := by
  have hval := val_lt_of_length_le_ten h
  rw [loadWord, ← Nat.shiftLeft_add_eq_or_of_lt (by omega), Nat.shiftLeft_eq, BitVec.toNat_ofNat,
    Nat.mod_eq_of_lt (by omega)]

/-- The host's load word leaves in the register what a command that writes the vector leaves (R23). -/
theorem VReg.ofWord_loadWord {x : Bits} (h : x.length ≤ 10) :
    VReg.ofWord (loadWord x) = packBits x := by
  have hval := val_lt_of_length_le_ten h
  rw [VReg.ofWord, packBits, VReg.mk.injEq]
  refine ⟨BitVec.eq_of_toNat_eq ?_, BitVec.eq_of_toNat_eq ?_⟩ <;>
    rw [BitVec.extractLsb'_toNat, loadWord_toNat h, Nat.shiftRight_eq_div_pow, BitVec.toNat_ofNat] <;>
    omega

theorem vregOffset_toNat (i : VIdx) : (vregOffset i).toNat = 0x10 + 4 * i.val := by
  revert i; decide

/-- What `ld vI` does to the machine: `V[i] <- x`, and an acknowledged write. -/
theorem serveEvent_ldEvent (i : VIdx) {x : Bits} (h : x.length ≤ 10) (s : State) :
    serveEvent (ldEvent i x) s = .next ((s.setV i x).pushReply ⟨false, none⟩) := by
  have hoff := vregOffset_toNat i
  have hreg := windowReg_of_vregOffset hoff
  have hserve := serve_write (off := vregOffset i) (by omega) (by rw [hreg]; nofun) (loadWord x) s
  rw [hreg, storeReg, VReg.ofWord_loadWord h] at hserve
  exact hserve

/-- Settles O56. -/
theorem textLoadsAsAVector : Obligations.TextLoadsAsAVector := by
  unfold Obligations.TextLoadsAsAVector
  refine ⟨fun cs => parseBits_error, fun cs h => ?_, fun s i x off w hlen hoff hw => ?_⟩
  · refine ⟨_, parseBits_ok h, List.length_map _, renderBits_map_eq_one h, fun j hj => ?_⟩
    simp [List.getD, hj]
  · have hoff' : off = vregOffset i := BitVec.eq_of_toNat_eq (hoff.trans (vregOffset_toNat i).symm)
    have hw' : w = loadWord x := BitVec.eq_of_toNat_eq (hw.trans (loadWord_toNat hlen).symm)
    subst hoff' hw'
    exact ⟨rfl, _, serveEvent_ldEvent i hlen s, vec_setV_same s i x hlen, rfl⟩

/-! ### The candidate keys (R71) -/

theorem bitsOf_succ (n k : Nat) : bitsOf (n + 1) k = k.testBit n :: bitsOf n k := by
  simp only [bitsOf, List.range_succ_eq_map, List.map_cons, List.map_map]
  refine congrArg₂ List.cons rfl (List.map_congr_left fun j _ => ?_)
  simp only [Function.comp_apply]
  congr 1
  omega

theorem val_bitsOf (n k : Nat) : val (bitsOf n k) = k % 2 ^ n := by
  induction n with
  | zero => rw [pow_zero, Nat.mod_one]; rfl
  | succ n ih =>
    rw [bitsOf_succ, val_cons, bitsOf_length, ih, Nat.mod_pow_succ, Nat.toNat_testBit]
    ring

/-! ### The key search (R72, R73, R75) -/

theorem isMatch_iff {c : Config} {p x : Bits} {k : Nat} :
    isMatch c p x k = true ↔
      decrypt c x (bitsOf 10 k) = .ok p ∧ encrypt c p (bitsOf 10 k) = .ok x := by
  rw [isMatch, Bool.and_eq_true, decide_eq_true_iff, decide_eq_true_iff, candidate]

theorem search_eq_some_iff {c : Config} {p x : Bits} {k : Nat} :
    search c p x = some k ↔
      k < 1024 ∧ isMatch c p x k = true ∧ ∀ j, j < k → ¬ isMatch c p x j = true := by
  simp only [search, keySpace, List.find?_range_eq_some, List.mem_range, Bool.not_eq_true',
    Bool.not_eq_true]
  exact and_left_comm

theorem search_eq_none_iff {c : Config} {p x : Bits} :
    search c p x = none ↔ ∀ k, k < 1024 → ¬ isMatch c p x k = true := by
  simp only [search, keySpace, List.find?_range_eq_none, Bool.not_eq_true', Bool.not_eq_true]

/-- Settles O52. -/
theorem searchReportsTheLeastMatch : Obligations.SearchReportsTheLeastMatch := by
  unfold Obligations.SearchReportsTheLeastMatch
  refine ⟨fun k hk => ⟨bitsOf_length 10 k, ?_⟩, fun c p x => ⟨fun k => ?_, ?_⟩⟩
  · exact (val_bitsOf 10 k).trans (Nat.mod_eq_of_lt hk)
  · simp only [search_eq_some_iff, isMatch_iff]
  · simp only [search_eq_none_iff, isMatch_iff]

/-- The least of a list that holds exactly the matching keys is the key that R73 reports. -/
theorem min?_eq_search {c : Config} {p x : Bits} {l : List Nat}
    (h : ∀ k, k ∈ l ↔ k < 1024 ∧ isMatch c p x k = true) : l.min? = search c p x := by
  cases hs : search c p x with
  | none =>
    rw [search_eq_none_iff] at hs
    refine List.min?_eq_none_iff.mpr (List.eq_nil_iff_forall_not_mem.mpr fun k hk => ?_)
    obtain ⟨hlt, hmatch⟩ := (h k).mp hk
    exact hs k hlt hmatch
  | some k =>
    obtain ⟨hlt, hmatch, hleast⟩ := search_eq_some_iff.mp hs
    refine List.min?_eq_some_iff.mpr ⟨(h k).mpr ⟨hlt, hmatch⟩, fun j hj => ?_⟩
    by_contra hjk
    exact hleast j (by omega) ((h j).mp hj).2

/-- The parts of a cover, filtered, hold exactly the matching keys. -/
theorem mem_flatMap_filter_isMatch {c : Config} {p x : Bits} {parts : List (List Nat)}
    (h : ∀ k, (∃ part ∈ parts, k ∈ part) ↔ k < 1024) (k : Nat) :
    (k ∈ parts.flatMap fun part => part.filter (isMatch c p x)) ↔
      k < 1024 ∧ isMatch c p x k = true := by
  rw [← h k]
  simp only [List.mem_flatMap, List.mem_filter, ← and_assoc, exists_and_right]

/-- Settles O53: whatever the partition, what is collected are the matching keys, and their least is R73's. -/
theorem parallelSearchReportsTheSameKey : Obligations.ParallelSearchReportsTheSameKey := by
  unfold Obligations.ParallelSearchReportsTheSameKey
  intro c p x
  refine ⟨fun parts hcover => min?_eq_search (mem_flatMap_filter_isMatch hcover), fun k => ?_⟩
  rw [collectAll, keySpace, List.mem_filter, List.mem_range]

end Sys2Proof.Machine
end

section
/-!
PROOFS. Decoding (30_encoding.md): the fields of a word as its nibbles (R81), when each operand decoder
answers a command (R85 to R87), and the legality of a word (R89).
-/

namespace Sys2Proof

open Sys2Proof.Reference

/-! ### The fields as nibbles (R81) -/

theorem toNat_extractLsb'_eq_nibble (w : Word) (k : Nat) :
    (w.extractLsb' (4 * k) 4).toNat = nibble w k := by
  rw [BitVec.extractLsb'_toNat, Nat.shiftRight_eq_div_pow, pow_mul]
  rfl

@[simp] theorem nibble_op (w : Word) : nibble w 0 = (opField w).toNat :=
  (toNat_extractLsb'_eq_nibble w 0).symm
@[simp] theorem nibble_rd (w : Word) : nibble w 1 = (rdField w).toNat :=
  (toNat_extractLsb'_eq_nibble w 1).symm
@[simp] theorem nibble_rs1 (w : Word) : nibble w 2 = (rs1Field w).toNat :=
  (toNat_extractLsb'_eq_nibble w 2).symm
@[simp] theorem nibble_rs2 (w : Word) : nibble w 3 = (rs2Field w).toNat :=
  (toNat_extractLsb'_eq_nibble w 3).symm
@[simp] theorem nibble_rd2 (w : Word) : nibble w 4 = (rd2Field w).toNat :=
  (toNat_extractLsb'_eq_nibble w 4).symm
@[simp] theorem nibble_imm (w : Word) : nibble w 5 = (immField w).toNat :=
  (toNat_extractLsb'_eq_nibble w 5).symm

/-- RSV is what lies above the six nibbles, so it is zero exactly when they are the whole word (R82). -/
theorem toNat_lt_iff_rsvField (w : Word) : w.toNat < 0x1000000 ↔ rsvField w = 0#8 := by
  rw [rsvField, BitVec.toNat_eq, BitVec.extractLsb'_toNat, Nat.shiftRight_eq_div_pow, BitVec.toNat_ofNat]
  omega

/-! ### When an operand decoder answers a command (R85 to R87) -/

section IsOk

variable {ε α : Type}

@[simp] theorem isOk_ok (a : α) : (.ok a : Except ε α).isOk = true := rfl
@[simp] theorem isOk_error (e : ε) : (.error e : Except ε α).isOk = false := rfl

theorem isOk_eq_true_iff {r : Except ε α} : r.isOk = true ↔ ∃ a, r = .ok a := by cases r <;> simp
theorem isOk_eq_false_iff {r : Except ε α} : r.isOk = false ↔ ∃ e, r = .error e := by cases r <;> simp

end IsOk

@[simp] theorem isOk_regOf (b : BitVec 4) : (regOf b).isOk = decide (b.toNat ≤ 7) := by
  revert b; decide

@[simp] theorem isOk_decodeUnary (mk : VIdx → VIdx → Instr) (w : Word) :
    (decodeUnary mk w).isOk = (decide ((rdField w).toNat ≤ 7) && decide ((rs1Field w).toNat ≤ 7)) := by
  rw [← isOk_regOf, ← isOk_regOf, decodeUnary]
  cases regOf (rdField w) <;> cases regOf (rs1Field w) <;> rfl

@[simp] theorem isOk_decodeBinary (mk : VIdx → VIdx → VIdx → Instr) (w : Word) :
    (decodeBinary mk w).isOk = (decide ((rdField w).toNat ≤ 7) && decide ((rs1Field w).toNat ≤ 7) &&
      decide ((rs2Field w).toNat ≤ 7)) := by
  rw [← isOk_regOf, ← isOk_regOf, ← isOk_regOf, decodeBinary]
  cases regOf (rdField w) <;> cases regOf (rs1Field w) <;> cases regOf (rs2Field w) <;> rfl

@[simp] theorem isOk_decodePair (mk : VIdx → VIdx → VIdx → Instr) (w : Word) :
    (decodePair mk w).isOk = (decide ((rdField w).toNat ≤ 7) && decide ((rs1Field w).toNat ≤ 7) &&
      (decide ((rd2Field w).toNat ≤ 7) && decide ((rdField w).toNat ≠ (rd2Field w).toNat))) := by
  rw [← isOk_regOf, ← isOk_regOf, ← isOk_regOf, decodePair]
  cases hd : regOf (rdField w) with
  | error => rfl
  | ok d =>
    cases hd2 : regOf (rd2Field w) with
    | error => cases regOf (rs1Field w) <;> rfl
    | ok d2 =>
      cases regOf (rs1Field w) with
      | error => rfl
      | ok a =>
        by_cases h : d = d2 <;>
          simp [regOf_inv hd, regOf_inv hd2, Fin.val_inj, h, bind, Except.bind, pure, Except.pure]

/-- IMM must select a table (R86). -/
@[simp] theorem isOk_decodePermute (w : Word) :
    (decodePermute w).isOk = (decide ((rdField w).toNat ≤ 7) && decide ((rs1Field w).toNat ≤ 7) &&
      [0, 1, 2, 3, 4, 5, 7].contains (immField w).toNat) := by
  rw [decodePermute]
  split <;> simp_all

/-- IMM must select a box (R86). -/
@[simp] theorem isOk_decodeSbox (w : Word) :
    (decodeSbox w).isOk = (decide ((rdField w).toNat ≤ 7) && decide ((rs1Field w).toNat ≤ 7) &&
      [0, 1].contains (immField w).toNat) := by
  rw [decodeSbox]
  split <;> simp_all

@[simp] theorem isOk_decodeRotl (w : Word) :
    (decodeRotl w).isOk = (decide ((rdField w).toNat ≤ 7) && decide ((rs1Field w).toNat ≤ 7)) :=
  isOk_decodeUnary _ w

/-! ### The legal words (R89) -/

/-- With RSV zero, each opcode's decoder bounds the fields that R89's list bounds for it. -/
theorem isOk_decode (w : Word) : (decode w).isOk = legalWord w := by
  by_cases hrsv : rsvField w = 0
  · rw [decode, if_neg (not_not.mpr hrsv)]
    split
    case h_12 => -- OP names no command
      have hop : 10 < (opField w).toNat := by grind
      simp [legalWord, toNat_lt_iff_rsvField, hop]
    all_goals simp [legalWord, toNat_lt_iff_rsvField, *]
  · rw [decode, if_pos hrsv]
    simp_all [legalWord, toNat_lt_iff_rsvField]

/-- Settles O25: both outcomes of `decode` are read off its success, which is the legality of the word. -/
theorem legalWordsAreExactlyTheListed : Obligations.LegalWordsAreExactlyTheListed := by
  intro w
  rw [← isOk_decode]
  exact ⟨isOk_eq_true_iff, isOk_eq_false_iff⟩

end Sys2Proof
end

section
/-!
PROOFS. The bit-vector family (40_bit_vector.md R100 to R108): the words of each operand form (R84, R85,
R87), what a command that commits a success or an error does to the whole machine (R177, R178), and the
commands `permute`, `split`, `rotl`, `xor` and `concat`.
-/

namespace Sys2Proof.Machine

open Sys2Proof.Reference

/-! ### The words of each operand form (R84 to R87) -/

theorem illegal_of_isOk_false {w : Word} (h : (decode w).isOk = false) : Illegal w := by
  obtain ⟨e, he⟩ := isOk_eq_false_iff.mp h
  exact ⟨⟨e, he⟩, fun s => by rw [execute, he]; rfl⟩

theorem unaryWords_of_decode {op : BitVec 4} {imm : BitVec 4 → Prop} {mk : VIdx → VIdx → Instr}
    (h : ∀ w, rsvField w = 0 → opField w = op → imm (immField w) → decode w = decodeUnary mk w) :
    UnaryWords op imm mk := by
  intro w hrsv hop himm
  have hdec := h w hrsv hop himm
  refine ⟨fun d a hd ha => ?_, fun hbad => illegal_of_isOk_false ?_⟩
  · rw [hdec, decodeUnary, regOf_ok hd, regOf_ok ha]
    rfl
  · simp only [hdec, isOk_decodeUnary, Bool.and_eq_false_iff, decide_eq_false_iff_not]
    omega

theorem binaryWords_of_decode {op : BitVec 4} {mk : VIdx → VIdx → VIdx → Instr}
    (h : ∀ w, rsvField w = 0 → opField w = op → decode w = decodeBinary mk w) : BinaryWords op mk := by
  intro w hrsv hop
  have hdec := h w hrsv hop
  refine ⟨fun d a b hd ha hb => ?_, fun hbad => illegal_of_isOk_false ?_⟩
  · rw [hdec, decodeBinary, regOf_ok hd, regOf_ok ha, regOf_ok hb]
    rfl
  · simp only [hdec, isOk_decodeBinary, Bool.and_eq_false_iff, decide_eq_false_iff_not]
    omega

theorem pairWords_of_decode {op : BitVec 4} {mk : VIdx → VIdx → VIdx → Instr}
    (h : ∀ w, rsvField w = 0 → opField w = op → decode w = decodePair mk w) : PairWords op mk := by
  intro w hrsv hop
  have hdec := h w hrsv hop
  refine ⟨fun d d2 a hne hd hd2 ha => ?_, fun hbad => illegal_of_isOk_false ?_⟩
  · rw [hdec, decodePair, regOf_ok hd, regOf_ok hd2, regOf_ok ha]
    exact if_neg hne
  · simp only [hdec, isOk_decodePair, Bool.and_eq_false_iff, decide_eq_false_iff_not, BitVec.toNat_eq]
      at hbad ⊢
    omega

/-! ### What a committed outcome does to the machine (R177, R178) -/

/-- The window shows the registers alone, so a read away from STATUS and the destinations is unchanged
once every other register is. -/
theorem OnlyWrites.of_registers {dests : List VIdx} {s t : State}
    (hv : ∀ j, j ∉ dests → t.vreg j = s.vreg j) (h0 : t.tbl0 = s.tbl0) (h1 : t.tbl1 = s.tbl1)
    (hcmd : t.cmdreg = s.cmdreg) (hcfg : t.cfg = s.cfg) (hin : t.inputs = s.inputs)
    (hrep : t.replies = s.replies) : OnlyWrites dests s t where
  vregs := hv
  tbl0 := h0
  tbl1 := h1
  cmdreg := hcmd
  cfg := hcfg
  inputs := hin
  replies := hrep
  window off hstatus hdests := by
    unfold memRead
    cases hreg : windowReg off with
    | cmd => exact hcmd
    | status => exact absurd hreg hstatus
    | tbl0 => exact h0
    | tbl1 => exact congrArg Tbl1.word h1
    | v i => exact congrArg VReg.word (hv i fun hi => hdests i hi hreg)
    | reserved => rfl

theorem failsWith_of_commit {i : Instr} {s : State} {r : Except Error (List (VIdx × Bits))} {e : Error}
    (h : exec i s = commit s r) (hr : r = .error e) : FailsWith i s e.code := by
  subst hr
  exact ⟨_, h, rfl, rfl, .of_registers (fun _ _ => rfl) rfl rfl rfl rfl rfl rfl⟩

theorem packBits_canonical {x : Bits} (h : x.length ≤ 10) : (packBits x).Canonical := by
  rw [VReg.Canonical, packBits_len x h, packBits_data x h]
  exact ⟨h, val_lt x⟩

/-- Destinations that differ each hold what was written to them. -/
theorem State.writeAll_vreg_mem {ws : List (VIdx × Bits)} (s : State) {p : VIdx × Bits}
    (hnd : (ws.map Prod.fst).Nodup) (hp : p ∈ ws) : (s.writeAll ws).vreg p.1 = packBits p.2 := by
  induction ws generalizing s with
  | nil => cases hp
  | cons w ws ih =>
    obtain ⟨hw, hnd'⟩ := List.nodup_cons.mp hnd
    cases hp with
    | head => rw [State.writeAll, State.writeAll_vreg_other _ _ hw, State.setV_vreg_same]
    | tail _ hp' => exact ih _ hnd' hp'

theorem succeeds_of_commit {i : Instr} {s : State} {r : Except Error (List (VIdx × Bits))}
    {ws : List (VIdx × Bits)} (h : exec i s = commit s r) (hr : r = .ok ws)
    (hlen : ∀ p ∈ ws, p.2.length ≤ 10) (hnd : (ws.map Prod.fst).Nodup) : Succeeds i s ws := by
  subst hr
  obtain ⟨h0, h1, hcmd, -, hfault, hcfg, hin, hrep⟩ := s.writeAll_same ws
  refine ⟨_, h, fun p hp => ?_, rfl, hfault,
    .of_registers (fun j => s.writeAll_vreg_other ws) h0 h1 hcmd hcfg hin hrep⟩
  have hreg : (s.writeAll ws).recordSuccess.vreg p.1 = packBits p.2 := s.writeAll_vreg_mem hnd hp
  refine ⟨?_, hreg ▸ packBits_canonical (hlen p hp)⟩
  rw [vec, hreg, packBits_len _ (hlen p hp), if_neg (by have := hlen p hp; omega),
    packBits_bits _ (hlen p hp)]

/-- The case of one destination. -/
theorem succeeds_of_commit_single {i : Instr} {s : State} {r : Except Error (List (VIdx × Bits))}
    {d : VIdx} {y : Bits} (h : exec i s = commit s r) (hr : r = .ok [(d, y)]) (hlen : y.length ≤ 10) :
    Succeeds i s [(d, y)] :=
  succeeds_of_commit h hr (by simpa using hlen) (by simp)

/-! ### Reading the sources (R22, R94) -/

section Sources

variable {β : Type} {s : State} {a b : VIdx} {x y : Bits}

theorem vec_error (h : 10 < lenOf s a) : vec s a = .error .shapeViolation := if_pos h

theorem source_error {f : Bits → Except Error β} (h : 10 < lenOf s a) :
    (vec s a >>= f) = .error .shapeViolation := by
  rw [vec_error h]; rfl

theorem source_ok {f : Bits → Except Error β} (hx : vec s a = .ok x) : (vec s a >>= f) = f x := by
  rw [hx]; rfl

theorem sources_error {f : Bits → Bits → Except Error β} (h : 10 < lenOf s a ∨ 10 < lenOf s b) :
    (vec s a >>= fun x => vec s b >>= f x) = .error .shapeViolation := by
  obtain ⟨-, hx⟩ | ⟨ha, -⟩ := vec_cases s a
  · rw [source_ok hx]
    obtain ha | hb := h
    · rw [vec_error ha] at hx; cases hx
    · exact source_error hb
  · exact source_error ha

theorem sources_ok {f : Bits → Bits → Except Error β} (hx : vec s a = .ok x) (hy : vec s b = .ok y) :
    (vec s a >>= fun x => vec s b >>= f x) = f x y := by
  rw [source_ok hx, source_ok hy]

end Sources

/-! ### permute (R100, R101) -/

/-- The words of `permute` for each table: IMM selects it (R86). -/
theorem permuteWords :
    UnaryWords 1 (· = 0) .permuteIp ∧ UnaryWords 1 (· = 1) .permuteIpinv ∧
    UnaryWords 1 (· = 2) .permuteEp ∧ UnaryWords 1 (· = 3) .permuteP4 ∧
    UnaryWords 1 (· = 4) .permuteP10 ∧ UnaryWords 1 (· = 5) .permuteP8 ∧
    UnaryWords 1 (· = 7) .permuteTbl := by
  refine ⟨?_, ?_, ?_, ?_, ?_, ?_, ?_⟩ <;>
    exact unaryWords_of_decode fun w hrsv hop himm => by simp [decode, decodePermute, hrsv, hop, himm]

theorem permute_reservedImm : ReservedImm 1 (fun v => v = 6 ∨ 8 ≤ v.toNat) := by
  intro w hop himm
  have hno : [0, 1, 2, 3, 4, 5, 7].contains (immField w).toNat = false := by
    obtain h | h := himm
    · rw [h]; rfl
    · simp only [List.contains_eq_mem, List.mem_cons, List.not_mem_nil, or_false,
        decide_eq_false_iff_not]
      omega
  refine illegal_of_isOk_false ?_
  rw [isOk_decode, legalWord, nibble_imm, nibble_op, hop, hno]
  simp

/-- A `permute` with any table of at most 10 entries: the output is as long as the table. -/
theorem permutesBy_of_exec {mk : VIdx → VIdx → Instr} {table : State → PermTable} {s : State}
    (h : ∀ d a, exec (mk d a) s = permuteWith d a (.ok (table s)) s) (hlen : (table s).length ≤ 10) :
    PermutesBy mk table s := by
  intro d a
  have hexec : exec (mk d a) s =
      commit s (vec s a >>= fun x => (permute x (table s)).map fun y => [(d, y)]) := h d a
  refine ⟨fun ha => failsWith_of_commit hexec (source_error ha), fun x hx =>
    ⟨fun hout => ?_, fun hin => ?_⟩⟩
  · refine failsWith_of_commit (e := .indexOutOfRange) hexec ?_
    rw [source_ok hx, permute_error hout]
    rfl
  · refine succeeds_of_commit_single hexec ?_ (by simpa [rearranged] using hlen)
    rw [source_ok hx, permute_ok hin]
    rfl

/-- The entries of the user table are the nibbles of the words (R29, R30). -/
theorem userEntry_eq_tableEntry (s : State) (p : Nat) : userEntry s p = tableEntry s p := by
  have hoff : 4 * p - 4 = 4 * (p - 1) := by omega
  rw [userEntry, tableEntry, hoff, toNat_extractLsb'_eq_nibble]
  rfl

theorem userTable_ok {s : State} (h : s.tbl1.tlen.toNat ≤ 10) : userTable s = .ok (tableEntries s) := by
  rw [userTable, if_neg (by omega)]
  simp only [userEntry_eq_tableEntry, tableEntries]

theorem userTable_error {s : State} (h : 10 < s.tbl1.tlen.toNat) :
    userTable s = .error .shapeViolation := if_pos h

/-- An illegal TLEN fails with the same error as an illegal source, so the order of the two reads does not
show. -/
theorem permuteTbl_failsWith {s : State} (h : 10 < s.tbl1.tlen.toNat) (d a : VIdx) :
    FailsWith (.permuteTbl d a) s 4 := by
  refine failsWith_of_commit (e := .shapeViolation) rfl ?_
  rw [userTable_error h]
  obtain ⟨-, hx⟩ | ⟨-, hx⟩ := vec_cases s a <;> rw [hx] <;> rfl

/-- Settles O34: each `permute` is `permuteWith` its table, whose length R33, or TLEN, bounds by 10. -/
theorem permuteRearrangesByItsTable : Obligations.PermuteRearrangesByItsTable := by
  unfold Obligations.PermuteRearrangesByItsTable
  obtain ⟨w0, w1, w2, w3, w4, w5, w7⟩ := permuteWords
  refine ⟨w0, w1, w2, w3, w4, w5, w7, permute_reservedImm, fun s wf => ?_⟩
  obtain ⟨⟨hip, -⟩, ⟨hinv, -⟩, ⟨hep, -⟩, ⟨h4, -⟩, ⟨h10, -⟩, ⟨h8, -⟩, -, -⟩ := wf
  refine ⟨permutesBy_of_exec (fun _ _ => rfl) (by omega), permutesBy_of_exec (fun _ _ => rfl) (by omega),
    permutesBy_of_exec (fun _ _ => rfl) (by omega), permutesBy_of_exec (fun _ _ => rfl) (by omega),
    permutesBy_of_exec (fun _ _ => rfl) (by omega), permutesBy_of_exec (fun _ _ => rfl) (by omega),
    permuteTbl_failsWith, fun htlen => permutesBy_of_exec (fun d a => ?_) ?_⟩
  · rw [exec, execPermuteTbl, userTable_ok htlen]
  · simpa [tableEntries] using htlen

/-! ### split (R102, R103) -/

theorem distinctDests_ok {d d2 : VIdx} (h : d ≠ d2) : distinctDests d d2 = .ok () := if_neg h

/-- Settles O35: with destinations that differ, the source is read and cut in the middle. -/
theorem splitWritesBothHalves : Obligations.SplitWritesBothHalves := by
  unfold Obligations.SplitWritesBothHalves
  refine ⟨pairWords_of_decode fun w hrsv hop => by simp [decode, hrsv, hop], fun s d d2 a hne => ?_⟩
  have hexec : exec (.split d d2 a) s =
      commit s (vec s a >>= fun x => (splitHalf x).map fun h => [(d, h.1), (d2, h.2)]) := by
    rw [exec, execSplit, distinctDests_ok hne]
    rfl
  refine ⟨fun ha => failsWith_of_commit hexec (source_error ha), fun x hx =>
    ⟨fun hodd => ?_, fun heven => ?_⟩⟩
  · refine failsWith_of_commit (e := .shapeViolation) hexec ?_
    rw [source_ok hx, splitHalf_error hodd]
    rfl
  · have hx10 := vec_length hx
    refine ⟨x.take (x.length / 2), x.drop (x.length / 2), (List.take_append_drop _ x).symm,
      by simp only [List.length_take, List.length_drop]; omega,
      succeeds_of_commit hexec ?_ (by simp; omega) (by simpa using hne)⟩
    rw [source_ok hx, splitHalf_ok heven]
    rfl

/-! ### rotl (R104, R105) -/

/-- Every IMM is an amount (R86). -/
theorem rotlWords (n : Fin 16) : UnaryWords 4 (fun v => v.toNat = n.val) (fun d a => .rotl d a n) := by
  refine unaryWords_of_decode fun w hrsv hop himm => ?_
  have hdec : decode w = decodeRotl w := by simp [decode, hrsv, hop]
  have hn : (⟨(immField w).toNat, (immField w).isLt⟩ : Fin 16) = n := Fin.ext himm
  rw [hdec, decodeRotl, hn]

/-- Settles O36: the result is the library's `List.rotate`. -/
theorem rotlRotatesByItsAmount : Obligations.RotlRotatesByItsAmount := by
  unfold Obligations.RotlRotatesByItsAmount
  refine ⟨rotlWords, fun s d a n =>
    ⟨fun ha => failsWith_of_commit rfl (source_error ha), fun x hx => ⟨fun hlt => ?_, fun hle => ?_⟩⟩⟩
  · refine failsWith_of_commit (e := .shapeViolation) rfl ?_
    rw [source_ok hx, rotateLeft_error hlt]
    rfl
  · refine ⟨x.rotate n, List.length_rotate .., fun j hj => List.getElem?_rotate hj, ?_,
      succeeds_of_commit_single rfl ?_ ((List.length_rotate ..).trans_le (vec_length hx))⟩
    · rintro (h | h)
      · rw [h, List.rotate_zero]
      · rw [h, List.rotate_length]
    · rw [source_ok hx, rotateLeft_ok hle, List.rotate_eq_drop_append_take hle]
      rfl

/-! ### xor (R106, R107) -/

theorem getD_zipWith_xor {x y : Bits} {j : Nat} (hx : j < x.length) (hy : j < y.length) :
    (List.zipWith Bool.xor x y).getD j false = (x.getD j false != y.getD j false) := by
  simp [List.getD, hx, hy]

/-- Settles O37: the result is `List.zipWith Bool.xor`. -/
theorem xorMixesElementwise : Obligations.XorMixesElementwise := by
  unfold Obligations.XorMixesElementwise
  refine ⟨binaryWords_of_decode fun w hrsv hop => by simp [decode, hrsv, hop], fun s d a b =>
    ⟨fun hab => failsWith_of_commit rfl (sources_error hab), fun x y hx hy =>
      ⟨fun hne => ?_, fun heq => ?_⟩⟩⟩
  · refine failsWith_of_commit (e := .lengthMismatch) rfl ?_
    rw [sources_ok hx hy, xorBits_error hne]
    rfl
  · have hlen : (List.zipWith Bool.xor x y).length = x.length := by simp [heq]
    refine ⟨_, hlen, fun j hj => getD_zipWith_xor hj (heq ▸ hj),
      succeeds_of_commit_single rfl ?_ (hlen.trans_le (vec_length hx))⟩
    rw [sources_ok hx hy, xorBits_ok heq]
    rfl

/-! ### concat (R108) -/

/-- Settles O38: the sum of the lengths decides between `a ++ b` and the error. -/
theorem concatJoinsItsSources : Obligations.ConcatJoinsItsSources := by
  unfold Obligations.ConcatJoinsItsSources
  refine ⟨binaryWords_of_decode fun w hrsv hop => by simp [decode, hrsv, hop], fun s d a b =>
    ⟨fun hab => failsWith_of_commit rfl (sources_error hab), fun x y hx hy =>
      ⟨fun hgt => ?_, fun hle => ?_⟩⟩⟩
  · refine failsWith_of_commit (e := .shapeViolation) rfl ?_
    rw [sources_ok hx hy, concatBits_error hgt]
    rfl
  · refine succeeds_of_commit_single rfl ?_ (by simpa using hle)
    rw [sources_ok hx hy, concatBits_ok hle]
    rfl

end Sys2Proof.Machine
end

section
/-!
PROOFS. The S-box family (41_sbox.md R120 to R122): a box read as a ROM, `substitute` as that reading, and
the commands `sbox`.
-/

namespace Sys2Proof.Machine

open Sys2Proof.Reference

/-! ### The box as a ROM (R120, R122) -/

theorem box_toList_flatten (box : SBox) : box.flatten.toList = box.toList.flatMap Vector.toList :=
  calc box.flatten.toList = (box.toArray.map Vector.toArray).flatten.toList := rfl
    _ = box.toList.flatMap Vector.toList := by
      rw [Array.toList_flatten, Array.toList_map, List.map_map]; rfl

/-- A box laid out row after row has `box[row][col]` at the address `4*row + col`. -/
theorem rom_getD (box : SBox) (row col : Fin 4) :
    (box.toList.flatMap Vector.toList).getD (4 * row.val + col.val) 0 = box[row][col] := by
  have hrow : (4 * row.val + col.val) / 4 = row.val := by omega
  have hcol : (4 * row.val + col.val) % 4 = col.val := by omega
  rw [← box_toList_flatten, List.getD_eq_getElem _ _ (by simp; omega), Vector.getElem_toList,
    Vector.getElem_flatten]
  simp only [hrow, hcol, Fin.getElem_fin]

/-- The quotient and the remainder by 2 are the bits of a box's value, the high one first. -/
theorem highLow_eq_decide (v : Fin 4) :
    [v.val / 2 == 1, v.val % 2 == 1] = [decide (2 ≤ v.val), decide (v.val % 2 = 1)] := by
  revert v; decide

/-- The row `2*x[0] + x[3]` and the column `2*x[1] + x[2]` form the ROM's address. -/
theorem substitute_eq_boxBits {x : Bits} (box : SBox) (h : x.length = 4) :
    substitute x box = .ok (boxBits box x) := by
  match x, h with
  | [x0, x1, x2, x3], _ =>
    have haddr : 4 * (twoBits x0 x3).val + (twoBits x1 x2).val =
        8 * x0.toNat + 4 * x3.toNat + 2 * x1.toNat + x2.toNat := by simp only [twoBits]; omega
    have hrom := rom_getD box (twoBits x0 x3) (twoBits x1 x2)
    rw [haddr] at hrom
    calc substitute [x0, x1, x2, x3] box
        = .ok [(box[twoBits x0 x3][twoBits x1 x2]).val / 2 == 1,
            (box[twoBits x0 x3][twoBits x1 x2]).val % 2 == 1] := rfl
      _ = .ok (boxBits box [x0, x1, x2, x3]) := by rw [highLow_eq_decide, ← hrom]; rfl

/-! ### The words of sbox (R86) -/

/-- IMM selects the box. -/
theorem sboxWords : UnaryWords 6 (· = 0) .sboxS0 ∧ UnaryWords 6 (· = 1) .sboxS1 := by
  refine ⟨?_, ?_⟩ <;>
    exact unaryWords_of_decode fun w hrsv hop himm => by simp [decode, decodeSbox, hrsv, hop, himm]

theorem sbox_reservedImm : ReservedImm 6 (fun v => 2 ≤ v.toNat) := by
  intro w hop himm
  have hno : [0, 1].contains (immField w).toNat = false := by
    simp only [List.contains_eq_mem, List.mem_cons, List.not_mem_nil, or_false,
      decide_eq_false_iff_not]
    omega
  refine illegal_of_isOk_false ?_
  rw [isOk_decode, legalWord, nibble_imm, nibble_op, hop, hno]
  simp

/-! ### The effect of sbox (R121) -/

theorem vec_length_eq_lenOf {s : State} {a : VIdx} {x : Bits} (hx : vec s a = .ok x) :
    x.length = lenOf s a := by
  obtain ⟨-, h⟩ | ⟨-, h⟩ := vec_cases s a
  · cases h.symm.trans hx
    exact VReg.bits_length _
  · cases h.symm.trans hx

section SboxWith

variable {i : Instr} {s : State} {d a : VIdx} {box : SBox} (hexec : exec i s = sboxWith d a box s)

include hexec

/-- An illegal LEN and a legal one other than 4 raise the same error. -/
theorem failsWith_of_sboxWith (h : lenOf s a ≠ 4) : FailsWith i s 4 := by
  refine failsWith_of_commit (e := .shapeViolation) hexec ?_
  obtain ⟨-, hx⟩ | ⟨hlen, -⟩ := vec_cases s a
  · rw [source_ok hx, substitute_error box ((vec_length_eq_lenOf hx).trans_ne h)]
    rfl
  · exact source_error hlen

theorem succeeds_of_sboxWith {x : Bits} (hx : vec s a = .ok x) (h : x.length = 4) :
    Succeeds i s [(d, boxBits box x)] := by
  refine succeeds_of_commit_single hexec ?_ (by simp [boxBits])
  rw [source_ok hx, substitute_eq_boxBits box h]
  rfl

end SboxWith

/-- Settles O39: each `sbox` is `sboxWith` its box, which fails unless LEN is 4. -/
theorem sboxLooksUpItsBox : Obligations.SboxLooksUpItsBox := by
  unfold Obligations.SboxLooksUpItsBox
  obtain ⟨w0, w1⟩ := sboxWords
  refine ⟨w0, w1, sbox_reservedImm, fun s d a => ?_⟩
  have hfail (h : lenOf s a ≠ 4) : FailsWith (.sboxS0 d a) s 4 ∧ FailsWith (.sboxS1 d a) s 4 :=
    ⟨failsWith_of_sboxWith rfl h, failsWith_of_sboxWith rfl h⟩
  refine ⟨fun ha => hfail (by omega), fun x hx => ⟨fun hne => ?_, fun h4 => ?_⟩⟩
  · exact hfail ((vec_length_eq_lenOf hx).symm.trans_ne hne)
  · exact ⟨succeeds_of_sboxWith rfl hx h4, succeeds_of_sboxWith rfl hx h4⟩

end Sys2Proof.Machine
end

section
/-!
PROOFS. The key-schedule family (42_key_schedule.md R130 to R133): the subkeys as the key's elements at net
rotations 1 and 3, the command `keygen`, and the wiring under the spec's tables.
-/

namespace Sys2Proof.Machine

open Sys2Proof.Reference

/-! ### Positions through the rotated halves (R104, R130) -/

theorem elem_append_left {x : Bits} (y : Bits) {q : Nat} (hq : q - 1 < x.length) :
    elem (x ++ y) q = elem x q := List.getD_append _ _ _ _ hq

theorem elem_append_right {x : Bits} (y : Bits) {q : Nat} (hq : x.length < q) :
    elem (x ++ y) q = elem y (q - x.length) := by
  rw [elem, elem, List.getD_append_right _ _ _ _ (by omega), Nat.sub_right_comm]

theorem elem_rotate {x : Bits} (n : Nat) {q : Nat} (hq : q - 1 < x.length) :
    elem (x.rotate n) q = elem x ((q - 1 + n) % x.length + 1) := by
  simp only [elem, List.getD, List.getElem?_rotate hq, Nat.add_sub_cancel]

/-- Position `q` of the two rotated halves holds what `rotatedFrom` names in the whole vector. -/
theorem elem_rotated_halves {l r : Bits} (hl : l.length = 5) (hr : r.length = 5) (n : Nat) {q : Nat}
    (hq : q ≤ 10) : elem (l.rotate n ++ r.rotate n) q = elem (l ++ r) (rotatedFrom n q) := by
  have hlen : (l.rotate n).length = 5 := (List.length_rotate ..).trans hl
  by_cases h5 : q ≤ 5
  · rw [rotatedFrom, if_pos h5, elem_append_left _ (by omega), elem_rotate _ (by omega), hl,
      elem_append_left _ (by omega)]
  · have hpos : (q - 6 + n) % 5 + 6 - 5 = (q - 6 + n) % 5 + 1 := by omega
    rw [rotatedFrom, if_neg h5, elem_append_right _ (by omega), hlen, elem_rotate _ (by omega), hr,
      elem_append_right _ (by omega), hl, hpos, Nat.sub_sub]

theorem rotatedFrom_range (n q : Nat) : 1 ≤ rotatedFrom n q ∧ rotatedFrom n q ≤ 10 := by
  unfold rotatedFrom
  split <;> omega

/-- An element of a rearranged vector is the source's element that the table names. -/
theorem elem_rearranged (x : Bits) {t : PermTable} {j : Nat} (hj : j - 1 < t.length) :
    elem (rearranged x t) j = elem x (t.getD (j - 1) 0) := by
  simp [elem, rearranged, List.getD, hj]

/-! ### generateSubkeys (R130) -/

theorem rotateLeft_eq_rotate {x : Bits} {n : Nat} (h : n ≤ x.length) :
    rotateLeft x n = .ok (x.rotate n) := by
  rw [rotateLeft_ok h, List.rotate_eq_drop_append_take h]

theorem permute_eq_rearranged {x : Bits} {t : PermTable} {m n : Nat} (h : t.Shape m n)
    (hn : n ≤ x.length) : permute x t = .ok (rearranged x t) := permute_shape h hn

theorem splitHalf_ten {x : Bits} (h : x.length = 10) :
    ∃ l r, splitHalf x = .ok (l, r) ∧ l ++ r = x ∧ l.length = 5 ∧ r.length = 5 :=
  ⟨_, _, splitHalf_ok (by omega), List.take_append_drop .., by simp; omega, by simp; omega⟩

section Subkeys

variable {t : Tables} (wf : t.WellFormed)

include wf

theorem subkeyRound_eq_rotate {l r : Bits} (hl : l.length = 5) (hr : r.length = 5) {n : Nat}
    (hn : n ≤ 5) : subkeyRound t n l r =
      .ok (l.rotate n, r.rotate n, rearranged (l.rotate n ++ r.rotate n) t.p8) := by
  obtain ⟨-, -, -, -, -, h8, -, -⟩ := wf
  have hlen : 10 ≤ (l.rotate n ++ r.rotate n).length := by
    simp only [List.length_append, List.length_rotate]; omega
  rw [subkeyRound, rotateLeft_eq_rotate (hn.trans_eq hl.symm), rotateLeft_eq_rotate (hn.trans_eq hr.symm)]
  simp only [bind, Except.bind, permute_eq_rearranged h8 hlen, pure, Except.pure]

/-- P8 on the halves of the post-P10 vector, each rotated by `n`, takes the subkey of that rotation. -/
theorem rearranged_rotated_halves {k l r : Bits} (hl : l.length = 5) (hr : r.length = 5)
    (hlr : l ++ r = rearranged k t.p10) (n : Nat) :
    rearranged (l.rotate n ++ r.rotate n) t.p8 = subkeyOf t n k := by
  obtain ⟨-, -, -, -, ⟨h10, -⟩, ⟨-, h8⟩, -, -⟩ := wf
  refine List.map_congr_left fun q hq => ?_
  have hpos := rotatedFrom_range n q
  rw [elem_rotated_halves hl hr n (h8 q hq).2, hlr, elem_rearranged _ (by omega)]

/-- The shifts 1 and 2 add up, so round 2 rotates the post-P10 halves by 3 (R132). -/
theorem generateSubkeys_eq_subkeyOf {k : Bits} (hk : k.length = 10) :
    generateSubkeys t k = .ok (subkeyOf t 1 k, subkeyOf t 3 k) := by
  have h10 := wf.2.2.2.2.1
  obtain ⟨l, r, hsplit, hlr, hl, hr⟩ :=
    splitHalf_ten (x := rearranged k t.p10) ((List.length_map _).trans h10.1)
  have hround1 : subkeyRound t ls[0] l r = .ok (l.rotate 1, r.rotate 1, subkeyOf t 1 k) := by
    rw [show ls[0] = 1 from rfl, subkeyRound_eq_rotate wf hl hr (by decide),
      rearranged_rotated_halves wf hl hr hlr]
  have hround2 : subkeyRound t ls[1] (l.rotate 1) (r.rotate 1) =
      .ok (l.rotate 3, r.rotate 3, subkeyOf t 3 k) := by
    rw [show ls[1] = 2 from rfl, subkeyRound_eq_rotate wf (by simpa using hl) (by simpa using hr)
      (by decide), List.rotate_rotate, List.rotate_rotate, rearranged_rotated_halves wf hl hr hlr]
  simp only [generateSubkeys, requireLength_ok hk, permute_eq_rearranged h10 hk.ge, bind, Except.bind,
    hsplit, hround1, hround2, pure, Except.pure]

theorem subkeyOf_length (n : Nat) (k : Bits) : (subkeyOf t n k).length = 8 := by
  obtain ⟨-, -, -, -, -, ⟨h8, -⟩, -, -⟩ := wf
  exact (List.length_map _).trans h8

end Subkeys

theorem generateSubkeys_error (t : Tables) {k : Bits} (hk : k.length ≠ 10) :
    generateSubkeys t k = .error .shapeViolation := by
  rw [generateSubkeys, requireLength_error hk]
  rfl

/-! ### keygen (R131) -/

/-- Settles O40: with destinations that differ, the key is read and `generateSubkeys` decides. -/
theorem keygenWritesBothSubkeys : Obligations.KeygenWritesBothSubkeys := by
  unfold Obligations.KeygenWritesBothSubkeys
  refine ⟨pairWords_of_decode fun w hrsv hop => by simp [decode, hrsv, hop],
    fun s d d2 a wf hne => ?_⟩
  have hexec : exec (.keygen d d2 a) s = commit s (vec s a >>= fun k =>
      (generateSubkeys s.cfg.tables k).map fun ks => [(d, ks.1), (d2, ks.2)]) := by
    rw [exec, execKeygen, distinctDests_ok hne]
    rfl
  refine ⟨fun ha => failsWith_of_commit hexec (source_error ha), fun k hk =>
    ⟨fun hlen => ?_, fun hlen => ?_⟩⟩
  · refine failsWith_of_commit (e := .shapeViolation) hexec ?_
    rw [source_ok hk, generateSubkeys_error _ hlen]
    rfl
  · refine succeeds_of_commit hexec ?_ (by simp [subkeyOf_length wf]) (by simpa using hne)
    rw [source_ok hk, generateSubkeys_eq_subkeyOf wf hlen]
    rfl

/-! ### The wiring under the spec's tables (R133) -/

/-- Settles O49: the positions that P8, the net rotations and P10 compose to, read off `subkeyOf`. -/
theorem standardKeyScheduleIsWiring : Obligations.StandardKeyScheduleIsWiring := by
  unfold Obligations.StandardKeyScheduleIsWiring
  intro k1 k2 k3 k4 k5 k6 k7 k8 k9 k10
  have wf : Tables.standard.WellFormed := by decide
  rw [generateSubkeys_eq_subkeyOf wf rfl]
  rfl

end Sys2Proof.Machine
end

section
/-!
PROOFS. The round function (43_round_function.md R140, R141): the expected value without the model's
primitives, the errors in their order, and the command `round`.
-/

namespace Sys2Proof.Machine

open Sys2Proof.Reference

/-! ### roundFunction (R140) -/

/-- The XOR step element by element: what EP places at position `j` against the subkey's element there. -/
theorem zipWith_xor_rearranged {r k : Bits} {t : PermTable} {n : Nat} (ht : t.length = n)
    (hk : k.length = n) : List.zipWith Bool.xor (rearranged r t) k =
      (List.range n).map fun j => Bool.xor (elem r (t.getD j 0)) (elem k (j + 1)) := by
  refine List.ext_getElem (by simp [rearranged, ht, hk]) fun j hj _ => ?_
  obtain ⟨hjt, hjk⟩ : j < t.length ∧ j < k.length := by simpa [rearranged] using hj
  simp [rearranged, elem, hjt, hjk]

theorem splitHalf_eight {x : Bits} (h : x.length = 8) : splitHalf x = .ok (x.take 4, x.drop 4) := by
  rw [splitHalf_ok (by omega), h]

section RoundFunction

variable {t : Tables} (wf : t.WellFormed)

include wf

theorem roundFunction_eq_roundOf {r k : Bits} (hr : r.length = 4) (hk : k.length = 8) :
    roundFunction t r k = .ok (roundOf t r k) := by
  obtain ⟨-, -, hep, hp4, -, -, -, -⟩ := wf
  have hexp : (rearranged r t.ep).length = k.length := (List.length_map _).trans (hep.1.trans hk.symm)
  obtain ⟨x, hxor, hx, hround⟩ : ∃ x, xorBits (rearranged r t.ep) k = .ok x ∧ x.length = 8 ∧
      roundOf t r k = rearranged (boxBits t.s0 (x.take 4) ++ boxBits t.s1 (x.drop 4)) t.p4 :=
    ⟨_, xorBits_ok hexp, by simp [hexp, hk], by rw [zipWith_xor_rearranged hep.1 hk]; rfl⟩
  have hsa := substitute_eq_boxBits t.s0 (x := x.take 4) (by simp [hx])
  have hsb := substitute_eq_boxBits t.s1 (x := x.drop 4) (by simp [hx])
  have hperm := permute_eq_rearranged (x := boxBits t.s0 (x.take 4) ++ boxBits t.s1 (x.drop 4)) hp4
    (by simp [boxBits])
  simp only [roundFunction, requireLength_ok hr, permute_eq_rearranged hep hr.ge, hxor,
    splitHalf_eight hx, hsa, hsb, hperm, hround, bind, Except.bind]

theorem roundOf_length (r k : Bits) : (roundOf t r k).length = 4 := by
  obtain ⟨-, -, -, ⟨hp4, -⟩, -, -, -, -⟩ := wf
  exact (List.length_map _).trans hp4

/-- The half has passed its own check, so the subkey's length is what the XOR step finds wrong. -/
theorem roundFunction_error_subkey {r k : Bits} (hr : r.length = 4) (hk : k.length ≠ 8) :
    roundFunction t r k = .error .lengthMismatch := by
  obtain ⟨-, -, hep, -, -, -, -, -⟩ := wf
  have hexp : (rearranged r t.ep).length ≠ k.length := by simpa [rearranged, hep.1] using hk.symm
  simp only [roundFunction, requireLength_ok hr, permute_eq_rearranged hep hr.ge, xorBits_error hexp,
    bind, Except.bind]

end RoundFunction

theorem roundFunction_error_half (t : Tables) {r : Bits} (k : Bits) (hr : r.length ≠ 4) :
    roundFunction t r k = .error .shapeViolation := by
  rw [roundFunction, requireLength_error hr]
  rfl

/-! ### round (R141) -/

/-- Settles O41: both sources are read, and then `roundFunction` decides. -/
theorem roundComputesTheRoundFunction : Obligations.RoundComputesTheRoundFunction := by
  unfold Obligations.RoundComputesTheRoundFunction
  refine ⟨binaryWords_of_decode fun w hrsv hop => by simp [decode, hrsv, hop], fun s d a b wf =>
    ⟨fun hab => failsWith_of_commit rfl (sources_error hab), fun r k hr hk =>
      ⟨fun hhalf => ?_, fun hhalf hsub => ?_, fun hhalf hsub => ?_⟩⟩⟩
  · refine failsWith_of_commit (e := .shapeViolation) rfl ?_
    rw [sources_ok hr hk, roundFunction_error_half _ _ hhalf]
    rfl
  · refine failsWith_of_commit (e := .lengthMismatch) rfl ?_
    rw [sources_ok hr hk, roundFunction_error_subkey wf hhalf hsub]
    rfl
  · refine succeeds_of_commit_single rfl ?_ ((roundOf_length wf r k).trans_le (by decide))
    rw [sources_ok hr hk, roundFunction_eq_roundOf wf hhalf hsub]
    rfl

end Sys2Proof.Machine
end

section
/-!
PROOFS. The cipher (44_cipher.md R150 to R155): the two-round structure as the reference one, the commands
`encrypt` and `decrypt`, and the inverse property under the spec's half order.
-/

namespace Sys2Proof.Machine

open Sys2Proof.Reference

/-! ### The two-round structure (R150) -/

section Feistel

variable {t : Tables} (wf : t.WellFormed)

include wf

theorem feistelRound_eq_roundOf {k l r : Bits} (hk : k.length = 8) (hl : l.length = 4)
    (hr : r.length = 4) :
    feistelRound t k l r = .ok (r, List.zipWith Bool.xor l (roundOf t r k)) := by
  have hxor := xorBits_ok (hl.trans (roundOf_length wf r k).symm)
  simp only [feistelRound, roundFunction_eq_roundOf wf hr hk, hxor, bind, Except.bind, pure, Except.pure]

theorem zipWith_xor_roundOf_length {l : Bits} (hl : l.length = 4) (r k : Bits) :
    (List.zipWith Bool.xor l (roundOf t r k)).length = 4 := by
  rw [List.length_zipWith, hl, roundOf_length wf]
  rfl

/-- The halves after IP (R150). -/
theorem rearranged_ip_halves (x : Bits) :
    ∃ l r, rearranged x t.ip = l ++ r ∧ l.length = 4 ∧ r.length = 4 := by
  obtain ⟨⟨hip, -⟩, -⟩ := wf
  exact ⟨(rearranged x t.ip).take 4, (rearranged x t.ip).drop 4, (List.take_append_drop ..).symm,
    by simp [rearranged, hip], by simp [rearranged, hip]⟩

end Feistel

/-- The reference structure, its halves named: `l0 ++ r0` after IP, `r1` and `r2` from the two rounds. -/
theorem feistelOf_eq_joinHalves (c : Config) {x l0 r0 r1 r2 ka kb : Bits}
    (hx : rearranged x c.tables.ip = l0 ++ r0) (hl0 : l0.length = 4)
    (h1 : List.zipWith Bool.xor l0 (roundOf c.tables r0 ka) = r1)
    (h2 : List.zipWith Bool.xor r0 (roundOf c.tables r1 kb) = r2) :
    feistelOf c x ka kb = rearranged (joinHalves c.finalHalfOrder r1 r2) c.tables.ipinv := by
  have htake : (l0 ++ r0).take 4 = l0 := List.take_left' hl0
  have hdrop : (l0 ++ r0).drop 4 = r0 := List.drop_left' hl0
  simp only [feistelOf, hx, htake, hdrop, h1, h2]
  cases c.finalHalfOrder <;> rfl

theorem joinHalves_length (o : HalfOrder) (l r : Bits) :
    (joinHalves o l r).length = l.length + r.length := by
  cases o
  · exact List.length_append.trans (Nat.add_comm ..)
  · exact List.length_append

section Cipher

variable {c : Config} (wf : c.WellFormed)

include wf

theorem feistel_eq_feistelOf {x ka kb : Bits} (hx : x.length = 8) (ha : ka.length = 8)
    (hb : kb.length = 8) : feistel c x ka kb = .ok (feistelOf c x ka kb) := by
  obtain ⟨hip, hinv, -⟩ := id wf
  obtain ⟨l0, r0, hlr, hl0, hr0⟩ := rearranged_ip_halves wf x
  have hsplit : splitHalf (l0 ++ r0) = .ok (l0, r0) := by
    rw [splitHalf_eight (by simp [hl0, hr0]), List.take_left' hl0, List.drop_left' hl0]
  have hr1 := zipWith_xor_roundOf_length wf hl0 r0 ka
  have hr2 := zipWith_xor_roundOf_length wf hr0 (List.zipWith Bool.xor l0 (roundOf c.tables r0 ka)) kb
  simp only [feistel, permute_eq_rearranged hip hx.ge, hlr, hsplit, feistelRound_eq_roundOf wf ha hl0 hr0,
    feistelRound_eq_roundOf wf hb hr0 hr1, bind, Except.bind, feistelOf_eq_joinHalves c hlr hl0 rfl rfl]
  exact permute_eq_rearranged hinv (by rw [joinHalves_length, hr1, hr2])

theorem feistelOf_length (x ka kb : Bits) : (feistelOf c x ka kb).length = 8 := by
  obtain ⟨l0, r0, hlr, hl0, -⟩ := rearranged_ip_halves wf x
  obtain ⟨-, ⟨hinv, -⟩, -⟩ := wf
  rw [feistelOf_eq_joinHalves c hlr hl0 rfl rfl]
  exact (List.length_map _).trans hinv

/-! ### encrypt and decrypt (R151, R152) -/

theorem encryptOf_length (x k : Bits) : (encryptOf c x k).length = 8 := feistelOf_length wf ..

theorem decryptOf_length (x k : Bits) : (decryptOf c x k).length = 8 := feistelOf_length wf ..

theorem encrypt_eq_encryptOf {x k : Bits} (hx : x.length = 8) (hk : k.length = 10) :
    encrypt c x k = .ok (encryptOf c x k) := by
  rw [encrypt, requireLength_ok hx, requireLength_ok hk, generateSubkeys_eq_subkeyOf wf hk]
  exact feistel_eq_feistelOf wf hx (subkeyOf_length wf ..) (subkeyOf_length wf ..)

theorem decrypt_eq_decryptOf {x k : Bits} (hx : x.length = 8) (hk : k.length = 10) :
    decrypt c x k = .ok (decryptOf c x k) := by
  rw [decrypt, requireLength_ok hx, requireLength_ok hk, generateSubkeys_eq_subkeyOf wf hk]
  exact feistel_eq_feistelOf wf hx (subkeyOf_length wf ..) (subkeyOf_length wf ..)

end Cipher

/-- A block or a key of another length raises the same error, whatever follows the two checks. -/
theorem requireLengths_error {β : Type} {x k : Bits} {m n : Nat} (rest : Except Error β)
    (h : x.length ≠ m ∨ k.length ≠ n) :
    (requireLength x m >>= fun _ => requireLength k n >>= fun _ => rest) = .error .shapeViolation := by
  by_cases hx : x.length = m
  · rw [requireLength_ok hx, requireLength_error (h.resolve_left (not_not_intro hx))]
    rfl
  · rw [requireLength_error hx]
    rfl

/-! ### The commands (R153, R154) -/

/-- A command that reads a block and a key, then writes the result of an operation that is total on the
lengths 8 and 10 and raises `ShapeViolation` on all others. -/
theorem ciphers_of_exec {mk : VIdx → VIdx → VIdx → Instr}
    {op : Config → Bits → Bits → Except Error Bits} {result : Config → Bits → Bits → Bits}
    (hexec : ∀ s d a b, exec (mk d a b) s = commit s (vec s a >>= fun x => vec s b >>= fun k =>
      (op s.cfg x k).map fun y => [(d, y)]))
    (herr : ∀ c x k, x.length ≠ 8 ∨ k.length ≠ 10 → op c x k = .error .shapeViolation)
    (hok : ∀ (c : Config) x k, c.WellFormed → x.length = 8 → k.length = 10 →
      op c x k = .ok (result c x k))
    (hlen : ∀ (c : Config) x k, c.WellFormed → (result c x k).length = 8) : Ciphers mk result := by
  intro s d a b wf
  refine ⟨fun hab => failsWith_of_commit (hexec s d a b) (sources_error hab), fun x k hx hk =>
    ⟨fun hbad => ?_, fun hx8 hk10 => ⟨hlen _ x k wf, ?_⟩⟩⟩
  · refine failsWith_of_commit (e := .shapeViolation) (hexec s d a b) ?_
    rw [sources_ok hx hk, herr _ _ _ hbad]
    rfl
  · refine succeeds_of_commit_single (hexec s d a b) ?_ ((hlen _ x k wf).trans_le (by decide))
    rw [sources_ok hx hk, hok _ _ _ wf hx8 hk10]
    rfl

/-- Settles O42: `feistel` is the reference structure step by step, and `encrypt` applies it to the subkeys
of the net rotations 1 and 3. -/
theorem encryptComputesTheCipher : Obligations.EncryptComputesTheCipher := by
  unfold Obligations.EncryptComputesTheCipher
  refine ⟨binaryWords_of_decode fun w hrsv hop => by simp [decode, hrsv, hop],
    ciphers_of_exec (op := encrypt) (fun _ _ _ _ => rfl) (fun _ _ _ => requireLengths_error _)
      (fun _ _ _ wf => encrypt_eq_encryptOf wf) (fun _ _ _ wf => encryptOf_length wf ..),
    fun _ _ _ _ wf => feistel_eq_feistelOf wf⟩

/-- Settles O43: `decrypt` is `encrypt` with the two subkeys exchanged. -/
theorem decryptComputesTheCipher : Obligations.DecryptComputesTheCipher := by
  unfold Obligations.DecryptComputesTheCipher
  exact ⟨binaryWords_of_decode fun w hrsv hop => by simp [decode, hrsv, hop],
    ciphers_of_exec (op := decrypt) (fun _ _ _ _ => rfl) (fun _ _ _ => requireLengths_error _)
      (fun _ _ _ wf => decrypt_eq_decryptOf wf) (fun _ _ _ wf => decryptOf_length wf ..)⟩

/-! ### The inverse property (R155) -/

/-- Position `i` of the composition reads position `i` (R33). -/
theorem rearranged_rearranged_of_undoes {t u : PermTable} {n : Nat} (ht : t.Shape n n)
    (hu : u.length = n) (h : t.Undoes u n) {x : Bits} (hx : x.length = n) :
    rearranged (rearranged x u) t = x := by
  obtain ⟨htl, hte⟩ := ht
  refine List.ext_getElem (by simp [rearranged, htl, hx]) fun i hi hix => ?_
  have hit : i < t.length := by simpa [rearranged] using hi
  have hentry := hte t[i] (List.getElem_mem hit)
  have hback : u.getD (t[i] - 1) 0 = i + 1 := by
    simpa [List.getD, hit] using h i (List.mem_range.mpr (by omega))
  calc (rearranged (rearranged x u) t)[i]
      = elem (rearranged x u) t[i] := List.getElem_map ..
    _ = elem x (i + 1) := by rw [elem_rearranged x (by omega), hback]
    _ = x[i] := List.getD_eq_getElem _ _ hix

/-- Mixing the same vector in twice gives the first one back (R109). -/
theorem zipWith_xor_cancel {a b : Bits} (h : a.length = b.length) :
    List.zipWith Bool.xor (List.zipWith Bool.xor a b) b = a :=
  List.ext_getElem (by simp [h]) fun i _ _ => by simp

section Inverse

variable {c : Config} (wf : c.WellFormed) (horder : c.finalHalfOrder = .r2l2)

include wf horder

/-- IP takes IP⁻¹'s vector `r2 ++ r1` back, so the second pass starts on the exchanged halves: with the
subkeys in reverse order its first round restores `r0` from `r2`, and its second `l0` from `r1`. -/
theorem feistelOf_reversed_subkeys {x : Bits} (hx : x.length = 8) (ka kb : Bits) :
    feistelOf c (feistelOf c x ka kb) kb ka = x := by
  obtain ⟨hip, hinv, -, -, -, -, hundo, hundo'⟩ := id wf
  obtain ⟨l0, r0, hlr, hl0, hr0⟩ := rearranged_ip_halves wf x
  obtain ⟨r1, h1⟩ : ∃ r1, List.zipWith Bool.xor l0 (roundOf c.tables r0 ka) = r1 := ⟨_, rfl⟩
  obtain ⟨r2, h2⟩ : ∃ r2, List.zipWith Bool.xor r0 (roundOf c.tables r1 kb) = r2 := ⟨_, rfl⟩
  have hr1 : r1.length = 4 := h1 ▸ zipWith_xor_roundOf_length wf hl0 r0 ka
  have hr2 : r2.length = 4 := h2 ▸ zipWith_xor_roundOf_length wf hr0 r1 kb
  have hfirst : feistelOf c x ka kb = rearranged (r2 ++ r1) c.tables.ipinv := by
    rw [feistelOf_eq_joinHalves c hlr hl0 h1 h2, horder]; rfl
  have hback : rearranged (feistelOf c x ka kb) c.tables.ip = r2 ++ r1 := by
    rw [hfirst, rearranged_rearranged_of_undoes hip hinv.1 hundo' (by simp [hr1, hr2])]
  have hround1 : List.zipWith Bool.xor r2 (roundOf c.tables r1 kb) = r0 := by
    rw [← h2, zipWith_xor_cancel (hr0.trans (roundOf_length wf ..).symm)]
  have hround2 : List.zipWith Bool.xor r1 (roundOf c.tables r0 ka) = l0 := by
    rw [← h1, zipWith_xor_cancel (hl0.trans (roundOf_length wf ..).symm)]
  calc feistelOf c (feistelOf c x ka kb) kb ka
      = rearranged (l0 ++ r0) c.tables.ipinv := by
        rw [feistelOf_eq_joinHalves c hback hr2 hround1 hround2, horder]; rfl
    _ = x := by rw [← hlr, rearranged_rearranged_of_undoes hinv hip.1 hundo hx]

theorem decrypt_encryptOf {x k : Bits} (hx : x.length = 8) (hk : k.length = 10) :
    decrypt c (encryptOf c x k) k = .ok x := by
  rw [decrypt_eq_decryptOf wf (encryptOf_length wf ..) hk]
  exact congrArg _ (feistelOf_reversed_subkeys wf horder hx _ _)

theorem encrypt_decryptOf {x k : Bits} (hx : x.length = 8) (hk : k.length = 10) :
    encrypt c (decryptOf c x k) k = .ok x := by
  rw [encrypt_eq_encryptOf wf (decryptOf_length wf ..) hk]
  exact congrArg _ (feistelOf_reversed_subkeys wf horder hx _ _)

end Inverse

/-- Settles O44: either operation runs the structure again with the subkeys in the other order. -/
theorem decryptInvertsEncrypt : Obligations.DecryptInvertsEncrypt := by
  unfold Obligations.DecryptInvertsEncrypt
  intro c x k wf horder hx hk
  exact ⟨⟨_, encrypt_eq_encryptOf wf hx hk, encryptOf_length wf .., decrypt_encryptOf wf horder hx hk⟩,
    ⟨_, decrypt_eq_decryptOf wf hx hk, decryptOf_length wf .., encrypt_decryptOf wf horder hx hk⟩⟩

/-- Settles O55: the block one check ends with is the one the other starts from. -/
theorem theTwoChecksAgree : Obligations.TheTwoChecksAgree := by
  unfold Obligations.TheTwoChecksAgree
  intro c p x k wf horder hp hx
  have hk : (candidate k).length = 10 := bitsOf_length 10 k
  constructor
  · intro hdec
    cases (decrypt_eq_decryptOf wf hx hk).symm.trans hdec
    exact encrypt_decryptOf wf horder hx hk
  · intro henc
    cases (encrypt_eq_encryptOf wf hp hk).symm.trans henc
    exact decrypt_encryptOf wf horder hp hk

end Sys2Proof.Machine
end

section
/-!
PROOFS. The control family (45_control.md R160): `nop` and its words.
-/

namespace Sys2Proof.Machine

open Sys2Proof.Reference

/-- `nop` commits no results (R94 step 4). -/
theorem exec_nop (s : State) : exec .nop s = commit s (.ok []) := rfl

/-- RSV is decoded first, so a reserved bit makes a word illegal whatever its other fields hold (R82). -/
theorem illegal_of_rsvField {w : Word} (h : rsvField w ≠ 0) : Illegal w :=
  illegal_of_isOk_false (by rw [decode, if_pos h, isOk_error])

/-- `nop` uses no operand field, so OP and RSV decide its words (R84). -/
theorem decode_nop {w : Word} (hop : opField w = 0) (hrsv : rsvField w = 0) : decode w = .ok .nop := by
  rw [decode, if_neg (not_not.mpr hrsv), hop]
  rfl

/-- Settles O33: a success with no destination is the update of ERR alone. -/
theorem nopOnlyClearsErr : Obligations.NopOnlyClearsErr := by
  unfold Obligations.NopOnlyClearsErr
  refine ⟨fun s => ?_, fun s => ?_, fun w => decode_nop, fun w _ => illegal_of_rsvField⟩
  · rw [exec_nop, commit_ok]
    rfl
  · exact succeeds_of_commit (exec_nop s) rfl nofun List.nodup_nil

end Sys2Proof.Machine
end

section
/-!
PROOFS. The exceptions (60_exceptions.md R170 to R181): when `IllegalCommand` is recorded (R88, R176), and
the code that every command reports, in the order of R179.
-/

namespace Sys2Proof

/-! ### The destinations of a decoded command (R87) -/

theorem wf_of_decodeUnary {mk : VIdx → VIdx → Instr} {w : Word} {i : Instr}
    (h : decodeUnary mk w = .ok i) (hmk : ∀ d a, (mk d a).wf = true) : i.wf = true := by
  obtain ⟨d, a, rfl, -⟩ := decodeUnary_inv h
  exact hmk d a

theorem wf_of_decodeBinary {mk : VIdx → VIdx → VIdx → Instr} {w : Word} {i : Instr}
    (h : decodeBinary mk w = .ok i) (hmk : ∀ d a b, (mk d a b).wf = true) : i.wf = true := by
  obtain ⟨d, a, b, rfl, -⟩ := decodeBinary_inv h
  exact hmk d a b

theorem wf_of_decodePair {mk : VIdx → VIdx → VIdx → Instr} {w : Word} {i : Instr}
    (h : decodePair mk w = .ok i) (hmk : ∀ d d2 a, d ≠ d2 → (mk d d2 a).wf = true) : i.wf = true := by
  obtain ⟨d, d2, a, rfl, hne, -⟩ := decodePair_inv h
  exact hmk d d2 a hne

theorem wf_of_decodePermute {w : Word} {i : Instr} (h : decodePermute w = .ok i) : i.wf = true := by
  unfold decodePermute at h
  split at h
  case h_8 => cases h -- a reserved IMM
  all_goals exact wf_of_decodeUnary h fun _ _ => rfl

theorem wf_of_decodeSbox {w : Word} {i : Instr} (h : decodeSbox w = .ok i) : i.wf = true := by
  unfold decodeSbox at h
  split at h
  case h_3 => cases h -- a reserved IMM
  all_goals exact wf_of_decodeUnary h fun _ _ => rfl

/-- A word that decodes names destinations that differ. -/
theorem wf_of_decode {w : Word} {i : Instr} (h : decode w = .ok i) : i.wf = true := by
  unfold decode at h
  split at h
  case isTrue => cases h -- RSV is not zero
  case isFalse =>
    split at h
    case h_1 => cases h; rfl
    case h_2 => exact wf_of_decodePermute h
    case h_5 => exact wf_of_decodeUnary h fun _ _ => rfl
    case h_7 => exact wf_of_decodeSbox h
    case h_4 | h_8 => exact wf_of_decodePair h fun _ _ _ => decide_eq_true
    case h_12 => cases h -- OP names no command
    all_goals exact wf_of_decodeBinary h fun _ _ _ => rfl

end Sys2Proof

namespace Sys2Proof.Machine

open Sys2Proof.Reference

/-! ### IllegalCommand is an error of the word alone (R176) -/

/-- The computation does not raise `IllegalCommand`, which R176 reserves for the command word. -/
def NotIllegal {α : Type} (r : Except Error α) : Prop := r ≠ .error .illegalCommand

section NotIllegal

variable {α β : Type}

theorem NotIllegal.ok (a : α) : NotIllegal (.ok a) := nofun

theorem NotIllegal.bind {r : Except Error α} {f : α → Except Error β} (hr : NotIllegal r)
    (hf : ∀ a, NotIllegal (f a)) : NotIllegal (r >>= f) := by
  cases r with
  | ok a => exact hf a
  | error e => exact fun h => hr (congrArg Except.error (Except.error.inj h))

theorem NotIllegal.ite {p : Prop} [Decidable p] {r q : Except Error α} (hr : NotIllegal r)
    (hq : NotIllegal q) : NotIllegal (if p then r else q) := by
  split <;> assumption

end NotIllegal

theorem vec_notIllegal {s : State} {i : VIdx} : NotIllegal (vec s i) := .ite nofun nofun
theorem userTable_notIllegal {s : State} : NotIllegal (userTable s) := .ite nofun nofun
theorem permute_notIllegal {x : Bits} {t : PermTable} : NotIllegal (permute x t) := .ite nofun nofun
theorem splitHalf_notIllegal {x : Bits} : NotIllegal (splitHalf x) := .ite nofun nofun
theorem rotateLeft_notIllegal {x : Bits} {k : Nat} : NotIllegal (rotateLeft x k) := .ite nofun nofun
theorem xorBits_notIllegal {x y : Bits} : NotIllegal (xorBits x y) := .ite nofun nofun
theorem concatBits_notIllegal {x y : Bits} : NotIllegal (concatBits x y) := .ite nofun nofun
theorem requireLength_notIllegal {x : Bits} {n : Nat} : NotIllegal (requireLength x n) :=
  .ite nofun nofun

theorem distinctDests_notIllegal {d d2 : VIdx} (h : d ≠ d2) : NotIllegal (distinctDests d d2) :=
  distinctDests_ok h ▸ .ok ()

theorem substitute_notIllegal {x : Bits} {box : SBox} : NotIllegal (substitute x box) := by
  unfold substitute
  split <;> nofun

theorem subkeyRound_notIllegal {t : Tables} {k : Nat} {l r : Bits} :
    NotIllegal (subkeyRound t k l r) :=
  .bind rotateLeft_notIllegal fun _ => .bind rotateLeft_notIllegal fun _ =>
    .bind permute_notIllegal fun _ => .ok _

theorem generateSubkeys_notIllegal {t : Tables} {k : Bits} : NotIllegal (generateSubkeys t k) :=
  .bind requireLength_notIllegal fun _ => .bind permute_notIllegal fun _ =>
    .bind splitHalf_notIllegal fun _ => .bind subkeyRound_notIllegal fun _ =>
      .bind subkeyRound_notIllegal fun _ => .ok _

theorem roundFunction_notIllegal {t : Tables} {r k : Bits} : NotIllegal (roundFunction t r k) :=
  .bind requireLength_notIllegal fun _ => .bind permute_notIllegal fun _ =>
    .bind xorBits_notIllegal fun _ => .bind splitHalf_notIllegal fun _ =>
      .bind substitute_notIllegal fun _ => .bind substitute_notIllegal fun _ => permute_notIllegal

theorem feistelRound_notIllegal {t : Tables} {k l r : Bits} : NotIllegal (feistelRound t k l r) :=
  .bind roundFunction_notIllegal fun _ => .bind xorBits_notIllegal fun _ => .ok _

theorem feistel_notIllegal {c : Config} {x ka kb : Bits} : NotIllegal (feistel c x ka kb) :=
  .bind permute_notIllegal fun _ => .bind splitHalf_notIllegal fun _ =>
    .bind feistelRound_notIllegal fun _ => .bind feistelRound_notIllegal fun _ => permute_notIllegal

theorem encrypt_notIllegal {c : Config} {x k : Bits} : NotIllegal (encrypt c x k) :=
  .bind requireLength_notIllegal fun _ => .bind requireLength_notIllegal fun _ =>
    .bind generateSubkeys_notIllegal fun _ => feistel_notIllegal

theorem decrypt_notIllegal {c : Config} {x k : Bits} : NotIllegal (decrypt c x k) :=
  .bind requireLength_notIllegal fun _ => .bind requireLength_notIllegal fun _ =>
    .bind generateSubkeys_notIllegal fun _ => feistel_notIllegal

section Commands

variable {s : State} {a b : VIdx} {α β : Type} {g : α → Except Error β} (hg : ∀ y, NotIllegal (g y))

include hg

/-- A command of one source: it reads the source and applies its operation. -/
theorem NotIllegal.unary {op : Bits → Except Error α} (hop : ∀ x, NotIllegal (op x)) :
    NotIllegal (vec s a >>= fun x => op x >>= g) :=
  .bind vec_notIllegal fun x => .bind (hop x) hg

/-- A command of two sources. -/
theorem NotIllegal.binary {op : Bits → Bits → Except Error α} (hop : ∀ x y, NotIllegal (op x y)) :
    NotIllegal (vec s a >>= fun x => vec s b >>= fun y => op x y >>= g) :=
  .bind vec_notIllegal fun x => .unary hg (hop x)

/-- A command of one source and a table. -/
theorem NotIllegal.tabled {table : Except Error PermTable} {op : Bits → PermTable → Except Error α}
    (ht : NotIllegal table) (hop : ∀ x t, NotIllegal (op x t)) :
    NotIllegal (vec s a >>= fun x => table >>= fun t => op x t >>= g) :=
  .bind vec_notIllegal fun x => .bind ht fun t => .bind (hop x t) hg

end Commands

/-- Only the check of the destinations raises `IllegalCommand`, and a well-formed command passes it. -/
theorem exec_commit_notIllegal {i : Instr} (h : i.wf = true) (s : State) :
    ∃ r, exec i s = commit s r ∧ NotIllegal r := by
  cases i with
  | nop => exact ⟨.ok [], rfl, .ok _⟩
  | permuteTbl d a =>
    exact ⟨_, rfl, .tabled (fun _ => .ok _) userTable_notIllegal fun _ _ => permute_notIllegal⟩
  | xor d a b => exact ⟨_, rfl, .binary (fun _ => .ok _) fun _ _ => xorBits_notIllegal⟩
  | split d d2 a =>
    exact ⟨_, rfl, .bind (distinctDests_notIllegal (of_decide_eq_true h)) fun _ =>
      .unary (fun _ => .ok _) fun _ => splitHalf_notIllegal⟩
  | rotl d a n => exact ⟨_, rfl, .unary (fun _ => .ok _) fun _ => rotateLeft_notIllegal⟩
  | concat d a b => exact ⟨_, rfl, .binary (fun _ => .ok _) fun _ _ => concatBits_notIllegal⟩
  | sboxS0 d a => exact ⟨_, rfl, .unary (fun _ => .ok _) fun _ => substitute_notIllegal⟩
  | sboxS1 d a => exact ⟨_, rfl, .unary (fun _ => .ok _) fun _ => substitute_notIllegal⟩
  | keygen d d2 a =>
    exact ⟨_, rfl, .bind (distinctDests_notIllegal (of_decide_eq_true h)) fun _ =>
      .unary (fun _ => .ok _) fun _ => generateSubkeys_notIllegal⟩
  | round d a b => exact ⟨_, rfl, .binary (fun _ => .ok _) fun _ _ => roundFunction_notIllegal⟩
  | encrypt d a b => exact ⟨_, rfl, .binary (fun _ => .ok _) fun _ _ => encrypt_notIllegal⟩
  | decrypt d a b => exact ⟨_, rfl, .binary (fun _ => .ok _) fun _ _ => decrypt_notIllegal⟩
  | _ d a => exact ⟨_, rfl, .tabled (fun _ => .ok _) (.ok _) fun _ _ => permute_notIllegal⟩

/-- Code 5 is `IllegalCommand` alone (R27). -/
theorem Error.code_eq_five {e : Error} : e.code = 5 → e = .illegalCommand := by
  cases e <;> decide

theorem exec_err_ne_illegal {i : Instr} {s t : State} (hwf : i.wf = true) (h : exec i s = .next t) :
    t.err ≠ 5 := by
  obtain ⟨r, hr, hnot⟩ := exec_commit_notIllegal hwf s
  obtain ⟨ws, -, rfl⟩ | ⟨e, rfl, rfl⟩ := commit_cases (hr ▸ h)
  · exact (by decide : (0 : BitVec 4) ≠ 5)
  · exact fun h5 => hnot (congrArg _ (Error.code_eq_five h5))

/-! ### A write of CMD (R59, R94) -/

theorem step_cmdWrite {s : State} {w : Word} {rest : List BusEvent}
    (h : s.inputs = .access (.write 0x00 4 w) :: rest) :
    step s = acknowledge ⟨false, none⟩ (execute w ((s.setInputs rest).setCmdreg w)) := by
  rw [step_event h]
  rfl

theorem execute_of_decode {w : Word} {i : Instr} (h : decode w = .ok i) (s : State) :
    execute w s = exec i s := by
  rw [execute, h]

/-- Settles O7: a word that does not decode fails before any register is read; one that does names a
well-formed command, which never raises `IllegalCommand`. -/
theorem illegalWordsAreRecorded : Obligations.IllegalWordsAreRecorded := by
  unfold Obligations.IllegalWordsAreRecorded
  intro s w rest h
  obtain ⟨u, hu⟩ := execute_next w ((s.setInputs rest).setCmdreg w)
  obtain ⟨-, -, hcmd, -, hin, hrep, -⟩ := execute_frame hu
  refine ⟨u.pushReply ⟨false, none⟩, by rw [step_cmdWrite h, hu]; rfl, hcmd, hin,
    congrArg (· ++ _) hrep, fun hillegal => ?_, fun hlegal => ?_⟩
  · obtain ⟨-, hexec⟩ := illegal_of_isOk_false ((isOk_decode w).trans hillegal)
    cases (hexec _).symm.trans hu
    exact ⟨rfl, rfl, rfl, rfl, rfl, rfl⟩
  · obtain ⟨i, hi⟩ := isOk_eq_true_iff.mp ((isOk_decode w).trans hlegal)
    rw [execute_of_decode hi] at hu
    exact exec_err_ne_illegal (t := u) (wf_of_decode hi) hu

/-! ### The code a computation reports (R177, R178) -/

/-- What a commit of the computation leaves in ERR: the code of its error, or `OK`. -/
def codeOf {α : Type} : Except Error α → BitVec 4
  | .ok _ => 0
  | .error e => e.code

theorem commit_err {s t : State} {r : Except Error (List (VIdx × Bits))} (h : commit s r = .next t) :
    t.err = codeOf r := by
  obtain ⟨ws, rfl, rfl⟩ | ⟨e, rfl, rfl⟩ := commit_cases h <;> rfl

/-! ### The code of each operation, by lengths alone (R172, R173, R175) -/

theorem codeOf_splitHalf (x : Bits) : codeOf (splitHalf x) = if x.length % 2 = 1 then 4 else 0 :=
  apply_ite codeOf ..

theorem codeOf_rotateLeft (x : Bits) (k : Nat) :
    codeOf (rotateLeft x k) = if x.length < k then 4 else 0 := apply_ite codeOf ..

theorem codeOf_xorBits (x y : Bits) : codeOf (xorBits x y) = if x.length ≠ y.length then 2 else 0 :=
  apply_ite codeOf ..

theorem codeOf_concatBits (x y : Bits) :
    codeOf (concatBits x y) = if 10 < x.length + y.length then 4 else 0 := apply_ite codeOf ..

theorem outside_iff {t : PermTable} {n : Nat} : outside t n = true ↔ ∃ p ∈ t, p < 1 ∨ n < p := by
  simp [outside]

theorem codeOf_permute (x : Bits) (t : PermTable) :
    codeOf (permute x t) = if outside t x.length then 1 else 0 := by
  split
  next h => rw [permute_error (outside_iff.mp h)]; rfl
  next h =>
    have hin (p : Nat) (hp : p ∈ t) : 1 ≤ p ∧ p ≤ x.length := by
      by_contra hout
      exact h (outside_iff.mpr ⟨p, hp, by omega⟩)
    rw [permute_ok hin]; rfl

theorem codeOf_substitute (x : Bits) (box : SBox) :
    codeOf (substitute x box) = if x.length = 4 then 0 else 4 := by
  split
  next h => rw [substitute_eq_boxBits box h]; rfl
  next h => rw [substitute_error box h]; rfl

section Composed

variable {c : Config} (wf : c.WellFormed)

include wf

theorem codeOf_generateSubkeys (k : Bits) :
    codeOf (generateSubkeys c.tables k) = if k.length = 10 then 0 else 4 := by
  split
  next h => rw [generateSubkeys_eq_subkeyOf wf h]; rfl
  next h => rw [generateSubkeys_error _ h]; rfl

theorem codeOf_roundFunction (r k : Bits) : codeOf (roundFunction c.tables r k) =
    if r.length ≠ 4 then 4 else if k.length ≠ 8 then 2 else 0 := by
  split_ifs with hr hk
  · rw [roundFunction_error_half _ _ hr]; rfl
  · rw [roundFunction_error_subkey wf (not_not.mp hr) hk]; rfl
  · rw [roundFunction_eq_roundOf wf (not_not.mp hr) (not_not.mp hk)]; rfl

theorem codeOf_encrypt (x k : Bits) :
    codeOf (encrypt c x k) = if x.length = 8 ∧ k.length = 10 then 0 else 4 := by
  split
  next h => rw [encrypt_eq_encryptOf wf h.1 h.2]; rfl
  next h => rw [encrypt, requireLengths_error _ (not_and_or.mp h)]; rfl

theorem codeOf_decrypt (x k : Bits) :
    codeOf (decrypt c x k) = if x.length = 8 ∧ k.length = 10 then 0 else 4 := by
  split
  next h => rw [decrypt_eq_decryptOf wf h.1 h.2]; rfl
  next h => rw [decrypt, requireLengths_error _ (not_and_or.mp h)]; rfl

end Composed

/-! ### The order of the checks (R94, R179) -/

section Order

variable {α β : Type} {s : State} {a b : VIdx}

theorem codeOf_distinctDests_bind (d d2 : VIdx) (f : Unit → Except Error β) :
    codeOf (distinctDests d d2 >>= f) = if d = d2 then 5 else codeOf (f ()) := by
  split
  next h => rw [distinctDests, if_pos h]; rfl
  next h => rw [distinctDests_ok h]; rfl

theorem codeOf_vec_bind (f : Bits → Except Error β) :
    codeOf (vec s a >>= f) = if 10 < lenOf s a then 4 else codeOf (f (s.vreg a).bits) := by
  obtain ⟨hle, hx⟩ | ⟨hgt, -⟩ := vec_cases s a
  · rw [source_ok hx]
    exact (if_neg (Nat.not_lt.mpr hle)).symm
  · rw [source_error hgt]
    exact (if_pos hgt).symm

/-- What follows an operation adds no error when it only names the destinations. -/
theorem codeOf_bind {r : Except Error α} {g : α → Except Error β} (hg : ∀ y, codeOf (g y) = 0) :
    codeOf (r >>= g) = codeOf r := by
  cases r with
  | ok y => exact hg y
  | error e => rfl

variable {g : α → Except Error β} (hg : ∀ y, codeOf (g y) = 0)

include hg

/-- A command of one source: an illegal LEN first, then the operation's own error. -/
theorem codeOf_unary {op : Bits → Except Error α} : codeOf (vec s a >>= fun x => op x >>= g) =
    if 10 < lenOf s a then 4 else codeOf (op (s.vreg a).bits) := by
  rw [codeOf_vec_bind, codeOf_bind hg]

/-- A command of two sources: RS1 is read before RS2. -/
theorem codeOf_binary {op : Bits → Bits → Except Error α} :
    codeOf (vec s a >>= fun x => vec s b >>= fun y => op x y >>= g) =
      if 10 < lenOf s a then 4 else if 10 < lenOf s b then 4
      else codeOf (op (s.vreg a).bits (s.vreg b).bits) := by
  rw [codeOf_vec_bind, codeOf_unary hg]

end Order

theorem bits_length_eq_lenOf (s : State) (a : VIdx) : (s.vreg a).bits.length = lenOf s a :=
  VReg.bits_length _

theorem codeOf_permuteWith {s : State} {a : VIdx} {β : Type} {g : Bits → Except Error β}
    (hg : ∀ y, codeOf (g y) = 0) (t : PermTable) :
    codeOf (vec s a >>= fun x => Except.ok t >>= fun t => permute x t >>= g) =
      permuteCode t (lenOf s a) := by
  refine (codeOf_unary hg).trans ?_
  rw [codeOf_permute, bits_length_eq_lenOf]
  rfl

/-- Each command checks its destinations, then reads its sources in order, then applies an operation whose
error its operands' lengths decide. Where `reportedCode` names only the accepted lengths, an illegal LEN is
none of them and has the code of the operation's own check. -/
theorem exec_commit_reportedCode {s : State} (wf : s.cfg.WellFormed) (i : Instr) :
    ∃ r, exec i s = commit s r ∧ codeOf r = reportedCode i s := by
  have hlen := bits_length_eq_lenOf s
  cases i with
  | nop => exact ⟨.ok [], rfl, rfl⟩
  | permuteTbl d a =>
    refine ⟨_, rfl, ?_⟩
    by_cases htlen : 10 < s.tbl1.tlen.toNat
    · rw [userTable_error htlen, codeOf_vec_bind]
      simp only [reportedCode, if_pos htlen]
      rfl
    · rw [userTable_ok (Nat.not_lt.mp htlen), codeOf_permuteWith fun _ => rfl]
      simp only [reportedCode, if_neg htlen]
      rfl
  | xor d a b =>
    refine ⟨_, rfl, ?_⟩
    rw [codeOf_binary fun _ => rfl, codeOf_xorBits, hlen, hlen]
    rfl
  | split d d2 a =>
    refine ⟨_, rfl, ?_⟩
    rw [codeOf_distinctDests_bind, codeOf_unary fun _ => rfl, codeOf_splitHalf, hlen]
    rfl
  | rotl d a n =>
    refine ⟨_, rfl, ?_⟩
    rw [codeOf_unary fun _ => rfl, codeOf_rotateLeft, hlen]
    rfl
  | concat d a b =>
    refine ⟨_, rfl, ?_⟩
    rw [codeOf_binary fun _ => rfl, codeOf_concatBits, hlen, hlen]
    rfl
  | sboxS0 d a | sboxS1 d a =>
    refine ⟨_, rfl, ?_⟩
    rw [codeOf_unary fun _ => rfl, codeOf_substitute, hlen, reportedCode]
    grind
  | keygen d d2 a =>
    refine ⟨_, rfl, ?_⟩
    rw [codeOf_distinctDests_bind, codeOf_unary fun _ => rfl, codeOf_generateSubkeys wf, hlen,
      reportedCode]
    grind
  | round d a b =>
    refine ⟨_, rfl, ?_⟩
    rw [codeOf_binary fun _ => rfl, codeOf_roundFunction wf, hlen, hlen]
    rfl
  | encrypt d a b =>
    refine ⟨_, rfl, ?_⟩
    rw [codeOf_binary fun _ => rfl, codeOf_encrypt wf, hlen, hlen, reportedCode]
    grind
  | decrypt d a b =>
    refine ⟨_, rfl, ?_⟩
    rw [codeOf_binary fun _ => rfl, codeOf_decrypt wf, hlen, hlen, reportedCode]
    grind
  | _ d a => exact ⟨_, rfl, codeOf_permuteWith (fun _ => rfl) _⟩

theorem exec_err {i : Instr} {s t : State} (wf : s.cfg.WellFormed) (h : exec i s = .next t) :
    t.err = reportedCode i s := by
  obtain ⟨r, hr, hcode⟩ := exec_commit_reportedCode wf i
  exact (commit_err (hr ▸ h)).trans hcode

/-- A command that fails changes nothing but STATUS (R177). -/
theorem exec_failure_frame {i : Instr} {s t : State} (h : exec i s = .next t) (herr : t.err ≠ 0) :
    OnlyWrites [] s t := by
  obtain ⟨h0, h1, hcmd, hcfg, hin, hrep, ⟨hok, -⟩ | ⟨e, -, -, hv⟩⟩ := exec_frame h
  · exact absurd hok herr
  · exact .of_registers (fun j _ => congrArg (·[j]) hv) h0 h1 hcmd hcfg hin hrep

/-- Settles O18: ERR is the code of the computation a command commits, and it decides between the two
outcomes of `commit`. -/
theorem everyCommandReportsItsFirstError : Obligations.EveryCommandReportsItsFirstError := by
  unfold Obligations.EveryCommandReportsItsFirstError
  refine ⟨fun i s wf => ?_, fun w s wf => ?_⟩
  · obtain ⟨t, ht⟩ := exec_next i s
    obtain ⟨hkept, hset⟩ := exec_fault ht
    rw [← exec_err wf ht]
    exact ⟨t, ht, rfl, fun hne => ⟨hset hne, exec_failure_frame ht hne⟩, hkept⟩
  · obtain ⟨t, ht⟩ := execute_next w s
    refine ⟨t, ht, fun hillegal => ?_, fun i hi => exec_err wf ?_⟩
    · obtain ⟨-, hexec⟩ := illegal_of_isOk_false ((isOk_decode w).trans hillegal)
      cases (hexec s).symm.trans ht
      rfl
    · rwa [← execute_of_decode hi]

end Sys2Proof.Machine
end

section
/-!
PROOFS. The step as a whole (20_memory.md R61, R62; 60_exceptions.md R170, R189): the invariant of R26, R27
and R32, the constant configuration, and the order in which the presented events are served.
-/

namespace Sys2Proof.Machine

/-! ### The invariant (R26, R27, R32) -/

theorem Error.errLegal_code {e : Error} (h : e ≠ .invalidBitValue) : errLegal e.code := by
  cases e with
  | invalidBitValue => exact absurd rfl h
  | indexOutOfRange | lengthMismatch | shapeViolation | illegalCommand => decide

theorem exec_errLegal {i : Instr} {s t : State} (h : exec i s = .next t) : errLegal t.err := by
  obtain ⟨r, hr, hno⟩ := exec_commit_noParseError i s
  obtain ⟨ws, -, rfl⟩ | ⟨e, rfl, rfl⟩ := commit_cases (hr ▸ h)
  · exact .inl rfl
  · exact Error.errLegal_code fun he => hno (congrArg _ he)

theorem execute_errLegal {w : Word} {s t : State} (h : execute w s = .next t) : errLegal t.err := by
  unfold execute at h
  split at h
  · exact exec_errLegal h
  · cases h
    exact Error.errLegal_code (e := .illegalCommand) nofun

theorem step_errLegal {s t : State} (hs : errLegal s.err) (h : step s = .next t) : errLegal t.err := by
  obtain ⟨-, rfl⟩ | ⟨a, rest, -, rfl⟩ | ⟨off, size, rest, -, -, rfl⟩ | ⟨off, size, w, rest, -, -, rfl⟩ |
    ⟨off, rest, -, -, rfl⟩ | ⟨off, w, rest, -, -, -, rfl⟩ | ⟨w, rest, u, -, hu, rfl⟩ := step_cases h
  · exact hs
  · exact .inl rfl
  · exact hs
  · exact hs
  · exact hs
  · obtain ⟨herr, -⟩ := storeReg_same (s.setInputs rest) (windowReg off) w
    rwa [State.pushReply_err, herr]
  · exact execute_errLegal (t := u) hu

theorem step_cfg {s t : State} (h : step s = .next t) : t.cfg = s.cfg := by
  obtain ⟨-, rfl⟩ | ⟨a, rest, -, rfl⟩ | ⟨off, size, rest, -, -, rfl⟩ | ⟨off, size, w, rest, -, -, rfl⟩ |
    ⟨off, rest, -, -, rfl⟩ | ⟨off, w, rest, -, -, -, rfl⟩ | ⟨w, rest, u, -, hu, rfl⟩ := step_cases h
  · rfl
  · rfl
  · rfl
  · rfl
  · rfl
  · obtain ⟨-, hcfg, -⟩ := storeReg_same (s.setInputs rest) (windowReg off) w
    exact hcfg
  · obtain ⟨-, -, -, hcfg, -⟩ := execute_frame hu
    exact hcfg

/-- Settles O3: the configuration is constant, and each writer of ERR writes a legal code. -/
theorem everyStepKeepsTheInvariant : Obligations.EveryStepKeepsTheInvariant := by
  unfold Obligations.EveryStepKeepsTheInvariant State.Inv
  rintro s t ⟨wf, herr⟩ h
  exact ⟨(step_cfg h).symm ▸ wf, step_errLegal herr h⟩

/-- Settles O23. -/
theorem configurationNeverChanges : Obligations.ConfigurationNeverChanges :=
  fun _ _ => step_cfg

/-- Settles O2: the tables of R34 have the shapes of R33, and reset leaves code 0. -/
theorem resetStateMeetsTheInvariant : Obligations.ResetStateMeetsTheInvariant := by
  have wf : Config.default.WellFormed := by decide
  exact ⟨wf, .inl rfl⟩

/-! ### One step (R170, R189) -/

theorem step_idle {s : State} (h : s.inputs = []) : step s = .next s := by
  rw [step, stepEvent, h]

/-- Settles O4: an idle step and a served event both answer. -/
theorem everyStepAnswersNext : Obligations.EveryStepAnswersNext := by
  unfold Obligations.EveryStepAnswersNext
  intro s
  cases hi : s.inputs with
  | nil => exact ⟨s, step_idle hi⟩
  | cons e rest =>
    rw [step_event hi]
    exact serveEvent_next e _

/-- Settles O5. -/
theorem idleCoreKeepsItsState : Obligations.IdleCoreKeepsItsState :=
  fun _ => step_idle

/-- Settles O6. -/
theorem stepRunsTheDecodedCommand : Obligations.StepRunsTheDecodedCommand := by
  unfold Obligations.StepRunsTheDecodedCommand
  intro s w rest i h hi
  rw [step_cmdWrite h, execute_of_decode hi]

/-! ### The queue of events (R62)

What the core does with one event does not depend on the events behind it. -/

variable {s t : State}

theorem State.writeAll_setInputs (ws : List (VIdx × Bits)) (s : State) (es : List BusEvent) :
    (s.setInputs es).writeAll ws = (s.writeAll ws).setInputs es := by
  induction ws generalizing s with
  | nil => rfl
  | cons w ws ih => exact ih (s.setV w.1 w.2)

theorem commit_setInputs {r : Except Error (List (VIdx × Bits))} (h : commit s r = .next t)
    (es : List BusEvent) : commit (s.setInputs es) r = .next (t.setInputs es) := by
  obtain ⟨ws, rfl, rfl⟩ | ⟨e, rfl, rfl⟩ := commit_cases h
  · rw [commit_ok, State.writeAll_setInputs]
    rfl
  · rfl

theorem exec_setInputs {i : Instr} (h : exec i s = .next t) (es : List BusEvent) :
    exec i (s.setInputs es) = .next (t.setInputs es) := by
  obtain ⟨r, hr, hr'⟩ :=
    exec_commit_sameOperands i (SameOperands.of_registers (s := s) (s' := s.setInputs es) rfl rfl rfl rfl)
  rw [hr']
  exact commit_setInputs (hr ▸ h) es

theorem execute_setInputs {w : Word} (h : execute w s = .next t) (es : List BusEvent) :
    execute w (s.setInputs es) = .next (t.setInputs es) := by
  unfold execute at h ⊢
  split at h
  · exact exec_setInputs h es
  · cases h; rfl

theorem storeReg_setInputs (s : State) (r : WindowReg) (w : Word) (es : List BusEvent) :
    storeReg (s.setInputs es) r w = (storeReg s r w).setInputs es := by
  cases r with
  | status => simp only [storeReg]; split <;> rfl
  | cmd | tbl0 | tbl1 | v i | reserved => rfl

theorem memWrite_setInputs {off : BitVec 6} {w : Word} (h : memWrite s off w = .next t)
    (es : List BusEvent) : memWrite (s.setInputs es) off w = .next (t.setInputs es) := by
  unfold memWrite at h ⊢
  split at h
  · rw [storeReg_setInputs]
    exact execute_setInputs h es
  · cases h
    rw [storeReg_setInputs]

theorem memRead_setInputs (s : State) (off : BitVec 6) (es : List BusEvent) :
    memRead (s.setInputs es) off = memRead s off := by
  unfold memRead
  cases windowReg off <;> rfl

theorem serve_setInputs {a : Access} (h : serve a s = .next t) (es : List BusEvent) :
    serve a (s.setInputs es) = .next (t.setInputs es) := by
  cases a with
  | read off size =>
    by_cases hok : accessOk off size = true
    all_goals
      simp only [serve, hok, if_true, if_false, memRead_setInputs, Bool.false_eq_true] at h ⊢
      cases h
      rfl
  | write off size w =>
    obtain ⟨u, hu⟩ := memWrite_next s off w
    by_cases hok : accessOk off size = true
    all_goals
      simp only [serve, hok, if_true, if_false, hu, memWrite_setInputs hu, Bool.false_eq_true] at h ⊢
      cases h
      rfl

theorem serveEvent_setInputs {e : BusEvent} (h : serveEvent e s = .next t) (es : List BusEvent) :
    serveEvent e (s.setInputs es) = .next (t.setInputs es) := by
  cases e with
  | access a => exact serve_setInputs h es
  | reset a => cases h; rfl

/-- Settles O8, by induction on the events: the first step serves the first event, and leaves the machine
with the others to come. -/
theorem stepsServeTheQueueInOrder : Obligations.StepsServeTheQueueInOrder := by
  unfold Obligations.StepsServeTheQueueInOrder
  intro es rest
  induction es with
  | nil =>
    intro s h
    cases s
    cases h
    rfl
  | cons e es ih =>
    intro s h
    obtain ⟨u, hu⟩ := serveEvent_next e (s.setInputs rest)
    have hstep : Sys2Proof.core.step s = .next (u.setInputs (es ++ rest)) :=
      (step_event h).trans (serveEvent_setInputs hu (es ++ rest))
    have hrest : u.setInputs rest = u :=
      Host.Outcome.next.inj ((serveEvent_setInputs hu rest).symm.trans hu)
    simp only [List.length_cons, Host.Core.run, hstep, serveAll, hu]
    exact (ih _ rfl).trans (congrArg _ hrest)

end Sys2Proof.Machine
end

section
/-!
PROOFS. The encoding (30_encoding.md R80 to R92): a word decodes to a command exactly when the command is
well formed and the bits its decoding reads are those of the command's own word; and the opcode table.
-/

namespace Sys2Proof

open Sys2Proof.Reference

/-! ### Words and masks by their fields (R81) -/

/-- The six nibbles of a word. -/
def CmdFields.ofWord (w : Word) : CmdFields where
  op  := opField w
  rd  := rdField w
  rs1 := rs1Field w
  rs2 := rs2Field w
  rd2 := rd2Field w
  imm := immField w

theorem CmdFields.word_toNat (f : CmdFields) : f.word.toNat =
    f.imm.toNat * 2 ^ 20 + f.rd2.toNat * 2 ^ 16 + f.rs2.toNat * 2 ^ 12 + f.rs1.toNat * 2 ^ 8 +
      f.rd.toNat * 2 ^ 4 + f.op.toNat := by
  have hop : (f.op.setWidth 32).toNat = f.op.toNat := BitVec.toNat_setWidth_of_le (by decide)
  have h1 := Machine.toNat_packed (k := 4) f.rd (lo := f.op.setWidth 32) (by omega) (by decide)
  have h2 := Machine.toNat_packed (k := 8) f.rs1 (lo := _) (h1.trans_lt (by omega)) (by decide)
  have h3 := Machine.toNat_packed (k := 12) f.rs2 (lo := _) (h2.trans_lt (by omega)) (by decide)
  have h4 := Machine.toNat_packed (k := 16) f.rd2 (lo := _) (h3.trans_lt (by omega)) (by decide)
  have h5 := Machine.toNat_packed (k := 20) f.imm (lo := _) (h4.trans_lt (by omega)) (by decide)
  simp only [CmdFields.word, BitVec.or_assoc, h1, h2, h3, h4, h5, hop]
  omega

/-- A word with RSV zero is its six nibbles. -/
theorem word_ofWord {w : Word} (h : rsvField w = 0) : (CmdFields.ofWord w).word = w := by
  have hlt := (toNat_lt_iff_rsvField w).mpr h
  refine BitVec.eq_of_toNat_eq ?_
  simp only [CmdFields.word_toNat, CmdFields.ofWord, ← nibble_op, ← nibble_rd, ← nibble_rs1,
    ← nibble_rs2, ← nibble_rd2, ← nibble_imm, nibble]
  omega

theorem eq_word_iff {w : Word} {f : CmdFields} :
    w = f.word ↔ rsvField w = 0 ∧ CmdFields.ofWord w = f := by
  constructor
  · rintro rfl
    simp [CmdFields.ofWord]
  · rintro ⟨hrsv, rfl⟩
    exact (word_ofWord hrsv).symm

/-- Each field of a masked word is the field under the mask's own. -/
theorem and_eq_word_iff {w m : Word} {f : CmdFields} : w &&& m = f.word ↔
    rsvField w &&& rsvField m = 0 ∧ opField w &&& opField m = f.op ∧ rdField w &&& rdField m = f.rd ∧
    rs1Field w &&& rs1Field m = f.rs1 ∧ rs2Field w &&& rs2Field m = f.rs2 ∧
    rd2Field w &&& rd2Field m = f.rd2 ∧ immField w &&& immField m = f.imm := by
  rw [eq_word_iff, CmdFields.ofWord, CmdFields.mk.injEq]
  simp only [rsvField, opField, rdField, rs1Field, rs2Field, rd2Field, immField, BitVec.extractLsb'_and]

/-! ### The masks of the bits a decoding reads (R84) -/

@[simp] theorem nibble_and_ones (b : BitVec 4) : b &&& 15#4 = b := BitVec.and_allOnes
@[simp] theorem rsv_and_ones (b : BitVec 8) : b &&& 255#8 = b := BitVec.and_allOnes

section Masks

variable {w : Word} {op rd rs1 rs2 rd2 imm : BitVec 4}

theorem and_nopMask_iff : w &&& 0xFF00000F = CmdFields.word { op := op } ↔
    rsvField w = 0 ∧ opField w = op := by
  rw [and_eq_word_iff]
  simp [rsvField, opField, rdField, rs1Field, rs2Field, rd2Field, immField]

theorem and_unaryMask_iff :
    w &&& 0xFFF00FFF = CmdFields.word { op := op, rd := rd, rs1 := rs1, imm := imm } ↔
      rsvField w = 0 ∧ opField w = op ∧ rdField w = rd ∧ rs1Field w = rs1 ∧ immField w = imm := by
  rw [and_eq_word_iff]
  simp [rsvField, opField, rdField, rs1Field, rs2Field, rd2Field, immField]

theorem and_binaryMask_iff :
    w &&& 0xFF00FFFF = CmdFields.word { op := op, rd := rd, rs1 := rs1, rs2 := rs2 } ↔
      rsvField w = 0 ∧ opField w = op ∧ rdField w = rd ∧ rs1Field w = rs1 ∧ rs2Field w = rs2 := by
  rw [and_eq_word_iff]
  simp [rsvField, opField, rdField, rs1Field, rs2Field, rd2Field, immField]

theorem and_pairMask_iff :
    w &&& 0xFF0F0FFF = CmdFields.word { op := op, rd := rd, rs1 := rs1, rd2 := rd2 } ↔
      rsvField w = 0 ∧ opField w = op ∧ rdField w = rd ∧ rs1Field w = rs1 ∧ rd2Field w = rd2 := by
  rw [and_eq_word_iff]
  simp [rsvField, opField, rdField, rs1Field, rs2Field, rd2Field, immField]

end Masks

/-! ### From a command's word to the command -/

/-- The used bits decide the decoding: a word with those of a well-formed command decodes to it. -/
theorem decode_of_and_usedMask {w : Word} {i : Instr} (hwf : i.wf = true)
    (h : w &&& usedMask i = encode i) : decode w = .ok i := by
  cases i with
  | nop =>
    obtain ⟨hrsv, hop⟩ := and_nopMask_iff.mp h
    exact Machine.decode_nop hop hrsv
  | permuteIp d a | permuteIpinv d a | permuteEp d a | permuteP4 d a | permuteP10 d a | permuteP8 d a
  | permuteTbl d a | sboxS0 d a | sboxS1 d a =>
    obtain ⟨hrsv, hop, hd, ha, himm⟩ := and_unaryMask_iff.mp h
    simp [decode, decodePermute, decodeSbox, decodeUnary, hrsv, hop, hd, ha, himm, bind, Except.bind,
      pure, Except.pure]
  | rotl d a n =>
    obtain ⟨hrsv, hop, hd, ha, himm⟩ := and_unaryMask_iff.mp h
    simp [decode, decodeRotl, decodeUnary, hrsv, hop, hd, ha, himm, bind, Except.bind, pure, Except.pure]
  | xor d a b | concat d a b | round d a b | encrypt d a b | decrypt d a b =>
    obtain ⟨hrsv, hop, hd, ha, hb⟩ := and_binaryMask_iff.mp h
    simp [decode, decodeBinary, hrsv, hop, hd, ha, hb, bind, Except.bind, pure, Except.pure]
  | split d d2 a | keygen d d2 a =>
    obtain ⟨hrsv, hop, hd, ha, hd2⟩ := and_pairMask_iff.mp h
    have hne : d ≠ d2 := of_decide_eq_true hwf
    simp [decode, decodePair, hrsv, hop, hd, ha, hd2, hne, bind, Except.bind, pure, Except.pure]

/-- The word of a command has no bits beyond those its decoding reads. -/
theorem encode_and_usedMask (i : Instr) : encode i &&& usedMask i = encode i := by
  cases i with
  | nop => exact and_nopMask_iff.mpr (by simp [encode, Instr.fields])
  | permuteIp d a | permuteIpinv d a | permuteEp d a | permuteP4 d a | permuteP10 d a | permuteP8 d a
  | permuteTbl d a | sboxS0 d a | sboxS1 d a | rotl d a n =>
    exact and_unaryMask_iff.mpr (by simp [encode, Instr.fields])
  | xor d a b | concat d a b | round d a b | encrypt d a b | decrypt d a b =>
    exact and_binaryMask_iff.mpr (by simp [encode, Instr.fields])
  | split d d2 a | keygen d d2 a => exact and_pairMask_iff.mpr (by simp [encode, Instr.fields])

/-- Settles O26. -/
theorem decodeOfEncodeIsTheCommand : Obligations.DecodeOfEncodeIsTheCommand :=
  fun i hwf => decode_of_and_usedMask hwf (encode_and_usedMask i)

/-! ### From a word to the command's word -/

theorem eq_regField_iff {b : BitVec 4} {i : VIdx} : b = regField i ↔ b.toNat = i.val := by
  rw [BitVec.toNat_eq, regField, BitVec.toNat_ofNat, Nat.mod_eq_of_lt (by omega)]

theorem eq_ofNat_of_toNat {b : BitVec 4} {n : Nat} (h : b.toNat = n) : b = BitVec.ofNat 4 n := by
  rw [← h, BitVec.ofNat_toNat, BitVec.setWidth_eq]

section Forms

variable {w : Word} {i : Instr} (hrsv : rsvField w = 0)

include hrsv

theorem and_usedMask_of_decodeUnary {mk : VIdx → VIdx → Instr} (h : decodeUnary mk w = .ok i)
    (hmask : ∀ d a, usedMask (mk d a) = 0xFFF00FFF)
    (hfields : ∀ d a, (mk d a).fields =
      { op := opField w, rd := regField d, rs1 := regField a, imm := immField w }) :
    w &&& usedMask i = encode i := by
  obtain ⟨d, a, rfl, hd, ha⟩ := decodeUnary_inv h
  rw [hmask, encode, hfields, and_unaryMask_iff]
  exact ⟨hrsv, rfl, eq_regField_iff.mpr hd, eq_regField_iff.mpr ha, rfl⟩

theorem and_usedMask_of_decodeBinary {mk : VIdx → VIdx → VIdx → Instr} (h : decodeBinary mk w = .ok i)
    (hmask : ∀ d a b, usedMask (mk d a b) = 0xFF00FFFF)
    (hfields : ∀ d a b, (mk d a b).fields =
      { op := opField w, rd := regField d, rs1 := regField a, rs2 := regField b }) :
    w &&& usedMask i = encode i := by
  obtain ⟨d, a, b, rfl, hd, ha, hb⟩ := decodeBinary_inv h
  rw [hmask, encode, hfields, and_binaryMask_iff]
  exact ⟨hrsv, rfl, eq_regField_iff.mpr hd, eq_regField_iff.mpr ha, eq_regField_iff.mpr hb⟩

theorem and_usedMask_of_decodePair {mk : VIdx → VIdx → VIdx → Instr} (h : decodePair mk w = .ok i)
    (hmask : ∀ d d2 a, usedMask (mk d d2 a) = 0xFF0F0FFF)
    (hfields : ∀ d d2 a, (mk d d2 a).fields =
      { op := opField w, rd := regField d, rs1 := regField a, rd2 := regField d2 }) :
    w &&& usedMask i = encode i := by
  obtain ⟨d, d2, a, rfl, -, hd, hd2, ha⟩ := decodePair_inv h
  rw [hmask, encode, hfields, and_pairMask_iff]
  exact ⟨hrsv, rfl, eq_regField_iff.mpr hd, eq_regField_iff.mpr ha, eq_regField_iff.mpr hd2⟩

theorem and_usedMask_of_decodePermute (hop : opField w = 1) (h : decodePermute w = .ok i) :
    w &&& usedMask i = encode i := by
  unfold decodePermute at h
  split at h
  case h_8 => cases h -- a reserved IMM
  all_goals
    next himm =>
    exact and_usedMask_of_decodeUnary hrsv h (fun _ _ => rfl) fun _ _ => by
      rw [hop, eq_ofNat_of_toNat himm]; rfl

theorem and_usedMask_of_decodeSbox (hop : opField w = 6) (h : decodeSbox w = .ok i) :
    w &&& usedMask i = encode i := by
  unfold decodeSbox at h
  split at h
  case h_3 => cases h -- a reserved IMM
  all_goals
    next himm =>
    exact and_usedMask_of_decodeUnary hrsv h (fun _ _ => rfl) fun _ _ => by
      rw [hop, eq_ofNat_of_toNat himm]; rfl

theorem and_usedMask_of_decodeRotl (hop : opField w = 4) (h : decodeRotl w = .ok i) :
    w &&& usedMask i = encode i :=
  and_usedMask_of_decodeUnary hrsv h (fun _ _ => rfl) fun _ _ => by
    simp only [Instr.fields, hop, ← eq_ofNat_of_toNat rfl]

end Forms

/-- A word that decodes has the used bits of its command's word, and zeros elsewhere in them. -/
theorem and_usedMask_of_decode {w : Word} {i : Instr} (h : decode w = .ok i) :
    w &&& usedMask i = encode i := by
  unfold decode at h
  split at h
  case isTrue => cases h -- RSV is not zero
  case isFalse hrsv =>
    replace hrsv := not_not.mp hrsv
    split at h
    case h_1 hop => cases h; exact and_nopMask_iff.mpr ⟨hrsv, eq_ofNat_of_toNat hop⟩
    case h_2 hop => exact and_usedMask_of_decodePermute hrsv (eq_ofNat_of_toNat hop) h
    case h_4 hop | h_8 hop =>
      exact and_usedMask_of_decodePair hrsv h (fun _ _ _ => rfl) fun _ _ _ => by
        rw [eq_ofNat_of_toNat hop]; rfl
    case h_5 hop => exact and_usedMask_of_decodeRotl hrsv (eq_ofNat_of_toNat hop) h
    case h_7 hop => exact and_usedMask_of_decodeSbox hrsv (eq_ofNat_of_toNat hop) h
    case h_12 => cases h -- OP names no command
    case h_3 hop | h_6 hop | h_9 hop | h_10 hop | h_11 hop =>
      exact and_usedMask_of_decodeBinary hrsv h (fun _ _ _ => rfl) fun _ _ _ => by
        rw [eq_ofNat_of_toNat hop]; rfl

/-- Settles O27. -/
theorem encodeOfDecodeClearsUnusedFields : Obligations.EncodeOfDecodeClearsUnusedFields :=
  fun _ _ h => ⟨wf_of_decode h, (and_usedMask_of_decode h).symm⟩

/-- Settles O28: the second word has the used bits of the same command. -/
theorem unusedFieldsAreIgnored : Obligations.UnusedFieldsAreIgnored :=
  fun _ _ _ h hused => decode_of_and_usedMask (wf_of_decode h) (hused ▸ and_usedMask_of_decode h)

/-- Settles O24: each word decodes by computation. -/
theorem writtenOutWordsDecode : Obligations.WrittenOutWordsDecode :=
  ⟨rfl, rfl, rfl, rfl, rfl, rfl, rfl, rfl, rfl, rfl⟩

/-- Settles O30. -/
theorem encodingEquation : Obligations.EncodingEquation :=
  fun i => i.fields.word_toNat

/-! ### The opcode table -/

/-- A command's row fixes bits that its decoding reads. -/
theorem usedMask_and_rowMask (i : Instr) : usedMask i &&& i.row.mask = i.row.mask := by
  cases i <;> simp only [usedMask, Instr.row] <;> decide

theorem encode_and_rowMask : ∀ i : Instr, encode i &&& i.row.mask = i.row.pattern
  | .nop => Laws.TableRow.nop
  | .permuteIp _ _ => Laws.TableRow.permuteIp _ _
  | .permuteIpinv _ _ => Laws.TableRow.permuteIpinv _ _
  | .permuteEp _ _ => Laws.TableRow.permuteEp _ _
  | .permuteP4 _ _ => Laws.TableRow.permuteP4 _ _
  | .permuteP10 _ _ => Laws.TableRow.permuteP10 _ _
  | .permuteP8 _ _ => Laws.TableRow.permuteP8 _ _
  | .permuteTbl _ _ => Laws.TableRow.permuteTbl _ _
  | .xor _ _ _ => Laws.TableRow.xor _ _ _
  | .split _ _ _ => Laws.TableRow.split _ _ _
  | .rotl _ _ _ => Laws.TableRow.rotl _ _ _
  | .concat _ _ _ => Laws.TableRow.concat _ _ _
  | .sboxS0 _ _ => Laws.TableRow.sboxS0 _ _
  | .sboxS1 _ _ => Laws.TableRow.sboxS1 _ _
  | .keygen _ _ _ => Laws.TableRow.keygen _ _ _
  | .round _ _ _ => Laws.TableRow.round _ _ _
  | .encrypt _ _ _ => Laws.TableRow.encrypt _ _ _
  | .decrypt _ _ _ => Laws.TableRow.decrypt _ _ _

/-- The rows of opcode_table.json. -/
def opcodeTable : List OpcodeRow :=
  [Instr.nop.row, (Instr.permuteIp 0 0).row, (Instr.permuteIpinv 0 0).row, (Instr.permuteEp 0 0).row,
   (Instr.permuteP4 0 0).row, (Instr.permuteP10 0 0).row, (Instr.permuteP8 0 0).row,
   (Instr.permuteTbl 0 0).row, (Instr.xor 0 0 0).row, (Instr.split 0 0 0).row, (Instr.rotl 0 0 0).row,
   (Instr.concat 0 0 0).row, (Instr.sboxS0 0 0).row, (Instr.sboxS1 0 0).row, (Instr.keygen 0 0 0).row,
   (Instr.round 0 0 0).row, (Instr.encrypt 0 0 0).row, (Instr.decrypt 0 0 0).row]

theorem row_mem_opcodeTable (i : Instr) : i.row ∈ opcodeTable := by
  cases i <;> simp [opcodeTable, Instr.row]

/-- Two rows that agree on the bits both fix are one row. -/
theorem opcodeTable_disjoint : ∀ r ∈ opcodeTable, ∀ r' ∈ opcodeTable,
    r.pattern &&& r'.mask = r'.pattern &&& r.mask → r = r' := by
  decide

/-- Settles O29: a word in two rows agrees with both patterns on the bits both masks keep. -/
theorem opcodeRowsAreDisjoint : Obligations.OpcodeRowsAreDisjoint := by
  unfold Obligations.OpcodeRowsAreDisjoint
  refine ⟨fun w i h => ?_, fun w i j hi hj => ?_⟩
  · rw [← usedMask_and_rowMask, ← BitVec.and_assoc, and_usedMask_of_decode h, encode_and_rowMask]
  · refine opcodeTable_disjoint _ (row_mem_opcodeTable i) _ (row_mem_opcodeTable j) ?_
    rw [← hi, ← hj, BitVec.and_assoc, BitVec.and_assoc, BitVec.and_comm i.row.mask]

end Sys2Proof
end

section
/-!
PROOFS. The assembler (30_encoding.md R90): the line of every command assembles to it.
-/

namespace Sys2Proof.Machine

@[simp] theorem regNamed_regNames (i : VIdx) : regNamed regNames[i] = some i := by
  revert i; decide

@[simp] theorem amountNamed_amountNames (n : Fin 16) : amountNamed amountNames[n] = some n := by
  revert n; decide

/-- A line of three register operands whose mnemonic is none of the three that read a table, a box or an
amount. -/
theorem assemble_registers {m : String} (hm : m ≠ "permute" ∧ m ≠ "sbox" ∧ m ≠ "rotl") (a b c : VIdx) :
    assemble [m, regNames[a], regNames[b], regNames[c]] = registersNamed m a b c := by
  obtain ⟨h1, h2, h3⟩ := hm
  simp [assemble, -Fin.getElem_fin, h1, h2, h3]

theorem assemble_permute (d a : VIdx) (table : String) :
    assemble ["permute", regNames[d], regNames[a], table] = permuteNamed d a table := by
  simp [assemble, -Fin.getElem_fin]

theorem assemble_sbox (d a : VIdx) (box : String) :
    assemble ["sbox", regNames[d], regNames[a], box] = sboxNamed d a box := by
  simp [assemble, -Fin.getElem_fin]

theorem assemble_rotl (d a : VIdx) (n : Fin 16) :
    assemble ["rotl", regNames[d], regNames[a], amountNames[n]] = some (.rotl d a n) := by
  simp [assemble, -Fin.getElem_fin]

/-- Settles O31, by the form of each command's line. -/
theorem assemblerReadsEveryLine : Obligations.AssemblerReadsEveryLine := by
  unfold Obligations.AssemblerReadsEveryLine
  intro i
  cases i with
  | nop => rfl
  | permuteIp d a | permuteIpinv d a | permuteEp d a | permuteP4 d a | permuteP10 d a | permuteP8 d a
  | permuteTbl d a => exact assemble_permute d a _
  | sboxS0 d a | sboxS1 d a => exact assemble_sbox d a _
  | rotl d a n => exact assemble_rotl d a n
  | xor d a b | concat d a b | round d a b | encrypt d a b | decrypt d a b | split d a b | keygen d a b =>
    exact assemble_registers (by decide) d a b

end Sys2Proof.Machine
end

section
/-!
PROOFS. Host writes and the words of the window (20_memory.md R57 to R59; 60_exceptions.md R188), and the
writers of STATUS (10_state.md R26; 60_exceptions.md R178).
-/

namespace Sys2Proof.Machine

open Sys2Proof.Reference

/-! ### What a register write leaves in each field (R59) -/

theorem clearsFault_iff {w : Word} : clearsFault w = true ↔ w.toNat / 2 ^ 8 % 2 = 1 := by
  rw [clearsFault, ← BitVec.testBit_toNat, Nat.testBit_eq_decide_div_mod_eq, decide_eq_true_iff]

section StoreReg

variable (s : State) (r : WindowReg) (w : Word)

theorem storeReg_cmdreg : (storeReg s r w).cmdreg = if r = .cmd then w else s.cmdreg := by
  cases r with
  | status => simp only [storeReg]; split <;> rfl
  | cmd | tbl0 | tbl1 | v i | reserved => rfl

theorem storeReg_fault : (storeReg s r w).fault =
    if r = .status ∧ w.toNat / 2 ^ 8 % 2 = 1 then false else s.fault := by
  cases r with
  | status =>
    simp only [storeReg, clearsFault_iff, true_and]
    split <;> rfl
  | cmd | tbl0 | tbl1 | v i | reserved => simp [storeReg]

theorem storeReg_tbl0 : (storeReg s r w).tbl0 = if r = .tbl0 then w else s.tbl0 := by
  cases r with
  | status => simp only [storeReg]; split <;> rfl
  | cmd | tbl0 | tbl1 | v i | reserved => rfl

theorem storeReg_tbl1 : (storeReg s r w).tbl1 = if r = .tbl1 then .ofWord w else s.tbl1 := by
  cases r with
  | status => simp only [storeReg]; split <;> rfl
  | cmd | tbl0 | tbl1 | v i | reserved => rfl

theorem storeReg_vreg (i : VIdx) :
    (storeReg s r w).vreg i = if r = .v i then .ofWord w else s.vreg i := by
  cases r with
  | status => simp only [storeReg]; split <;> rfl
  | cmd | tbl0 | tbl1 | reserved => rfl
  | v j =>
    by_cases h : j = i
    · subst h
      simp [storeReg]
    · simp [storeReg, h, State.setVReg_vreg_other s _ (Ne.symm h)]

end StoreReg

/-- The register map read backwards: the aligned offset of each register (R52). -/
theorem windowReg_eq_iff : ∀ off : BitVec 6, off.toNat % 4 = 0 →
    (windowReg off = .cmd ↔ off = 0x00) ∧ (windowReg off = .status ↔ off = 0x04) ∧
    (windowReg off = .tbl0 ↔ off = 0x08) ∧ (windowReg off = .tbl1 ↔ off = 0x0C) ∧
    ∀ i : VIdx, windowReg off = .v i ↔ off.toNat = 0x10 + 4 * i.val := by decide

/-! ### The words of the registers (R21, R30, R58, R59) -/

/-- A field cut out of a word and put back in its place is the word under the field's mask. -/
theorem setWidth_extractLsb'_shiftLeft (w : Word) (k n : Nat) :
    (w.extractLsb' k n).setWidth 32 <<< k = w &&& (BitVec.allOnes n).setWidth 32 <<< k := by
  ext i hi
  by_cases h : i < k
  · simp [h]
  · have hpos : k + (i - k) = i := by omega
    simp [h, hpos, BitVec.getLsbD_eq_getElem hi, Bool.and_comm]

theorem setWidth_extractLsb'_zero (w : Word) (n : Nat) :
    (w.extractLsb' 0 n).setWidth 32 = w &&& (BitVec.allOnes n).setWidth 32 := by
  simpa using setWidth_extractLsb'_shiftLeft w 0 n

/-- A write keeps the implemented bits of TBL1. -/
theorem Tbl1.word_ofWord (w : Word) : (Tbl1.ofWord w).word = w &&& 0x000F00FF := by
  rw [Tbl1.word, Tbl1.ofWord, setWidth_extractLsb'_shiftLeft, setWidth_extractLsb'_shiftLeft,
    setWidth_extractLsb'_zero, ← BitVec.and_or_distrib_left, ← BitVec.and_or_distrib_left]
  rfl

/-- A write keeps LEN and DATA. -/
theorem VReg.word_ofWord (w : Word) : (VReg.ofWord w).word = w &&& 0x000F03FF := by
  rw [VReg.word, VReg.ofWord, setWidth_extractLsb'_shiftLeft, setWidth_extractLsb'_zero,
    ← BitVec.and_or_distrib_left]
  rfl

theorem Tbl1.word_injective : Function.Injective Tbl1.word := by
  rintro ⟨tlen, e10, e9⟩ ⟨tlen', e10', e9'⟩ h
  have hnat := congrArg BitVec.toNat h
  simp only [Tbl1.word_toNat] at hnat
  have htlen : tlen.toNat = tlen'.toNat := by omega
  have h10 : e10.toNat = e10'.toNat := by omega
  have h9 : e9.toNat = e9'.toNat := by omega
  rw [BitVec.eq_of_toNat_eq htlen, BitVec.eq_of_toNat_eq h10, BitVec.eq_of_toNat_eq h9]

theorem VReg.word_injective : Function.Injective VReg.word := by
  rintro ⟨len, data⟩ ⟨len', data'⟩ h
  have hnat := congrArg BitVec.toNat h
  simp only [VReg.word_toNat] at hnat
  have hlen : len.toNat = len'.toNat := by omega
  have hdata : data.toNat = data'.toNat := by omega
  rw [BitVec.eq_of_toNat_eq hlen, BitVec.eq_of_toNat_eq hdata]

theorem statusWord_inj {e e' : BitVec 4} {f f' : Bool} (h : statusWord e f = statusWord e' f') :
    e = e' ∧ f = f' := by
  have hnat := congrArg BitVec.toNat h
  rw [statusWord_toNat, statusWord_toNat] at hnat
  have hf := f.toNat_lt
  have hf' := f'.toNat_lt
  have hfault : f.toNat = f'.toNat := by omega
  refine ⟨BitVec.eq_of_toNat_eq (by omega), Bool.eq_iff_iff.mpr ?_⟩
  rw [← Bool.toNat_eq_one, ← Bool.toNat_eq_one, hfault]

theorem VReg.ofWord_len (w : Word) : (VReg.ofWord w).len.toNat = w.toNat / 2 ^ 16 % 2 ^ 4 := by
  rw [VReg.ofWord, BitVec.extractLsb'_toNat, Nat.shiftRight_eq_div_pow]

theorem VReg.ofWord_data (w : Word) : (VReg.ofWord w).data.toNat = w.toNat % 2 ^ 10 := by
  rw [VReg.ofWord, BitVec.extractLsb'_toNat, Nat.shiftRight_zero]

/-! ### Host writes (R59) -/

/-- Settles O10: the register map names the one field that the write of an offset replaces. -/
theorem hostWritesStoreTheRegister : Obligations.HostWritesStoreTheRegister := by
  unfold Obligations.HostWritesStoreTheRegister
  intro s off w rest h halign
  refine ⟨?_, fun h0 => ?_⟩
  · rintro rfl
    exact step_cmdWrite h
  · obtain ⟨hcmd, hstatus, htbl0, htbl1, hv⟩ := windowReg_eq_iff off halign
    have hreg : windowReg off ≠ .cmd := h0 ∘ hcmd.mp
    obtain ⟨herr, hcfg, hin, hrep⟩ := storeReg_same (s.setInputs rest) (windowReg off) w
    refine ⟨_, (step_event h).trans (serve_write halign hreg w _), ?_, herr, hcfg, hin,
      congrArg (· ++ _) hrep, ?_, ?_, fun hne => ?_, fun heq => ?_, fun i hne => ?_, fun i heq => ?_⟩
    · exact (storeReg_cmdreg ..).trans (if_neg hreg)
    · exact (storeReg_fault ..).trans (by simp only [hstatus, State.setInputs_fault])
    · exact (storeReg_tbl0 ..).trans (by simp only [htbl0, State.setInputs_tbl0])
    · exact (storeReg_tbl1 ..).trans (if_neg (hne ∘ htbl1.mp))
    · rw [State.pushReply_tbl1, storeReg_tbl1, if_pos (htbl1.mpr heq), Tbl1.word_ofWord]
    · exact (storeReg_vreg ..).trans (if_neg (hne ∘ (hv i).mp))
    · rw [State.pushReply_vreg, storeReg_vreg, if_pos ((hv i).mpr heq)]
      exact ⟨VReg.ofWord_len w, VReg.ofWord_data w⟩

/-! ### What is read after a write (R57 to R59) -/

theorem memRead_pushReply (s : State) (a : Reply) (off : BitVec 6) :
    memRead (s.pushReply a) off = memRead s off := by
  unfold memRead
  cases windowReg off <;> rfl

theorem readReg_storeReg_same (s : State) {r : WindowReg} (hcmd : r ≠ .cmd) (hstatus : r ≠ .status)
    (w : Word) : readReg (storeReg s r w) r = w &&& keptBits r := by
  cases r with
  | cmd => exact absurd rfl hcmd
  | status => exact absurd rfl hstatus
  | tbl0 => exact BitVec.and_allOnes.symm
  | tbl1 => exact Tbl1.word_ofWord w
  | v i => rw [readReg, storeReg_vreg, if_pos rfl]; exact VReg.word_ofWord w
  | reserved => exact BitVec.and_zero.symm

theorem readReg_storeReg_other (s : State) {r r' : WindowReg} (hr : r' ≠ r) (w : Word) :
    readReg (storeReg s r w) r' = readReg s r' := by
  obtain ⟨herr, -⟩ := storeReg_same s r w
  cases r' with
  | cmd => exact (storeReg_cmdreg ..).trans (if_neg hr.symm)
  | status => simp only [readReg, herr, storeReg_fault, hr.symm, false_and, if_false]
  | tbl0 => exact (storeReg_tbl0 ..).trans (if_neg hr.symm)
  | tbl1 => rw [readReg, storeReg_tbl1, if_neg hr.symm, readReg]
  | v i => rw [readReg, storeReg_vreg, if_neg hr.symm, readReg]
  | reserved => rfl

/-- Settles O12. -/
theorem writesReadBackMasked : Obligations.WritesReadBackMasked := by
  unfold Obligations.WritesReadBackMasked
  intro s t off off' w hcmd hstatus h halign
  cases (serve_write halign hcmd w s).symm.trans h
  simp only [memRead_pushReply]
  exact ⟨readReg_storeReg_same s hcmd hstatus w, fun hne => readReg_storeReg_other s hne w⟩

/-! ### The window shows every register (R188, R197) -/

/-- Sixteen equal words are equal reads of every register. -/
theorem readReg_of_observe {s t : State} (h : (observe s).registers = (observe t).registers) :
    ∀ r, readReg s r = readReg t r := by
  have hread : ∀ k ∈ List.range 16, memRead s (BitVec.ofNat 6 (4 * k)) = memRead t (BitVec.ofNat 6 (4 * k)) :=
    List.map_inj_left.mp h
  intro r
  cases r with
  | cmd => exact hread 0 (by decide)
  | status => exact hread 1 (by decide)
  | tbl0 => exact hread 2 (by decide)
  | tbl1 => exact hread 3 (by decide)
  | v i =>
    have hi := hread (4 + i) (List.mem_range.mpr (by omega))
    rwa [memRead, memRead, Nat.mul_add, windowReg_vreg] at hi
  | reserved => rfl

/-- Settles O14: the word of each register determines it. -/
theorem windowShowsEveryRegister : Obligations.WindowShowsEveryRegister := by
  unfold Obligations.WindowShowsEveryRegister
  intro s t h
  have hread := readReg_of_observe h
  obtain ⟨herr, hfault⟩ := statusWord_inj (hread .status)
  refine ⟨Vector.ext fun i hi => ?_, hread .tbl0, Tbl1.word_injective (hread .tbl1), hread .cmd, herr,
    hfault⟩
  exact VReg.word_injective (hread (.v ⟨i, hi⟩))

/-! ### The writers of STATUS (R26, R177, R178) -/

/-- A command word sets both fields of STATUS as its outcome says. -/
theorem execute_status {w : Word} {s t : State} (h : execute w s = .next t) :
    (t.err = 0 ∧ t.fault = s.fault) ∨ (t.err ≠ 0 ∧ t.fault = true) := by
  obtain ⟨-, -, -, -, -, -, hok | ⟨e, herr, hfault, -⟩⟩ := execute_frame h
  · exact .inl hok
  · exact .inr ⟨herr ▸ e.code_ne_zero, hfault⟩

/-- Settles O15: the first three clauses follow the event served, and `step_cases` lists what is left. -/
theorem onlyTheseStepsWriteStatus : Obligations.OnlyTheseStepsWriteStatus := by
  unfold Obligations.OnlyTheseStepsWriteStatus
  intro s t h
  refine ⟨fun w rest hi => ?_, fun w rest hi => ?_, fun a rest hi => ?_, fun hcmd hstatus hreset => ?_⟩
  · obtain ⟨u, hu⟩ := execute_next w ((s.setInputs rest).setCmdreg w)
    rw [step_cmdWrite hi, hu] at h
    cases h
    exact execute_status (s := (s.setInputs rest).setCmdreg w) (t := u) hu
  · rw [step_event hi] at h
    cases h
    exact ⟨(storeReg_same (s.setInputs rest) .status w).1,
      (storeReg_fault (s.setInputs rest) .status w).trans (by simp only [true_and]; rfl)⟩
  · rw [step_reset hi] at h
    cases h
    exact ⟨rfl, rfl⟩
  · obtain ⟨-, rfl⟩ | ⟨a, rest, hi, -⟩ | ⟨off, size, rest, -, -, rfl⟩ |
      ⟨off, size, w, rest, -, -, rfl⟩ | ⟨off, rest, -, -, rfl⟩ | ⟨off, w, rest, hi, halign, -, rfl⟩ |
      ⟨w, rest, u, hi, -⟩ := step_cases h
    · exact ⟨rfl, rfl⟩
    · exact absurd hi (hreset a rest)
    · exact ⟨rfl, rfl⟩
    · exact ⟨rfl, rfl⟩
    · exact ⟨rfl, rfl⟩
    · have hreg : windowReg off ≠ .status := fun hs => by
        obtain ⟨-, hoff, -⟩ := windowReg_eq_iff off halign
        cases hoff.mp hs
        exact hstatus w rest hi
      exact ⟨(storeReg_same (s.setInputs rest) (windowReg off) w).1,
        (storeReg_fault ..).trans (if_neg fun hs => hreg hs.1)⟩
    · exact absurd hi (hcmd w rest)

theorem serveEvent_cmdWrite (w : Word) (s : State) :
    ∃ t, serveEvent (cmdWrite w) s = .next t ∧
      ((t.err = 0 ∧ t.fault = s.fault) ∨ (t.err ≠ 0 ∧ t.fault = true)) := by
  obtain ⟨u, hu⟩ := execute_next w (s.setCmdreg w)
  have hserve : serveEvent (cmdWrite w) s = acknowledge ⟨false, none⟩ (execute w (s.setCmdreg w)) := rfl
  rw [hserve, hu]
  exact ⟨_, rfl, execute_status (s := s.setCmdreg w) (t := u) hu⟩

/-- A run of command words ends clean exactly when it starts clean and none of them fails. -/
theorem endsClean_iff (ws : List Word) (s : State) :
    EndsClean (serveAll (ws.map cmdWrite) s) ↔ s.fault = false ∧
      ∀ n, n < ws.length → ∃ t, serveAll ((ws.take (n + 1)).map cmdWrite) s = .next t ∧ t.err = 0 := by
  induction ws generalizing s with
  | nil => simp [EndsClean, serveAll]
  | cons w ws ih =>
    obtain ⟨t, ht, hstatus⟩ := serveEvent_cmdWrite w s
    have hclean : t.fault = false ↔ s.fault = false ∧ t.err = 0 := by
      obtain ⟨herr, hfault⟩ | ⟨herr, hfault⟩ := hstatus
      · simp only [herr, hfault, and_true]
      · simp only [herr, hfault, and_false, Bool.true_eq_false]
    simp only [List.map_cons, serveAll, ht, ih, hclean, List.length_cons, Nat.forall_lt_succ_left,
      List.take_succ_cons, List.take_zero, List.map_nil, and_assoc]
    simp

/-- Settles O16. -/
theorem faultRecordsAnyFailureOfARun : Obligations.FaultRecordsAnyFailureOfARun := by
  unfold Obligations.FaultRecordsAnyFailureOfARun
  intro ws s hclean
  rw [endsClean_iff, hclean]
  exact and_iff_right rfl

end Sys2Proof.Machine
end

section
/-!
PROOFS. The destinations of a command (30_encoding.md R84; 10_state.md R22, R23; 60_exceptions.md R177, R178):
what it writes, how long that is, and what it leaves unchanged.
-/

namespace Sys2Proof.Machine

open Sys2Proof.Reference

/-! ### The bits above LEN (R22) -/

theorem State.setVReg_sameVector {s s' : State} (h : ∀ j, sameVector (s.vreg j) (s'.vreg j)) (i : VIdx)
    (r : VReg) (j : VIdx) : sameVector ((s.setVReg i r).vreg j) ((s'.setVReg i r).vreg j) := by
  by_cases hj : j = i
  · subst hj
    simp only [State.setVReg_vreg_same]
    exact ⟨rfl, fun _ _ => rfl⟩
  · rw [State.setVReg_vreg_other _ _ hj, State.setVReg_vreg_other _ _ hj]
    exact h j

theorem State.writeAll_sameVector (ws : List (VIdx × Bits)) {s s' : State}
    (h : ∀ j, sameVector (s.vreg j) (s'.vreg j)) (j : VIdx) :
    sameVector ((s.writeAll ws).vreg j) ((s'.writeAll ws).vreg j) := by
  induction ws generalizing s s' with
  | nil => exact h j
  | cons w ws ih => exact ih (State.setVReg_sameVector h w.1 (packBits w.2))

/-- Settles O20: the operands are the same, so both states commit the same results, and no write tells the
two states apart. -/
theorem bitsAboveLenTakeNoPart : Obligations.BitsAboveLenTakeNoPart := by
  unfold Obligations.BitsAboveLenTakeNoPart
  intro i s s' t t' hv h0 h1 hc ht ht'
  have hops : SameOperands s s' := ⟨fun j => vec_sameVector (hv j), userTable_congr h0 h1, hc⟩
  obtain ⟨r, hr, hr'⟩ := exec_commit_sameOperands i hops
  rw [hr] at ht
  rw [hr'] at ht'
  refine ⟨(commit_err ht).trans (commit_err ht').symm, fun j => vec_sameVector ?_⟩
  cases r with
  | ok ws => cases ht; cases ht'; exact State.writeAll_sameVector ws hv j
  | error e => cases ht; cases ht'; exact hv j

/-! ### The length of each operation's result -/

theorem userTable_ok_length {s : State} {t : PermTable} (h : userTable s = .ok t) : t.length ≤ 10 := by
  unfold userTable at h
  split at h
  · cases h
  · cases h; simpa using by omega

theorem splitHalf_ok_length {x : Bits} {h : Bits × Bits} (hs : splitHalf x = .ok h) :
    h.1.length ≤ x.length ∧ h.2.length ≤ x.length := by
  unfold splitHalf at hs
  split at hs
  · cases hs
  · cases hs; simp

theorem rotateLeft_ok_length {x y : Bits} {n : Nat} (h : rotateLeft x n = .ok y) :
    y.length = x.length := by
  unfold rotateLeft at h
  split at h
  · cases h
  · cases h; simp; omega

theorem xorBits_ok_length {x y z : Bits} (h : xorBits x y = .ok z) : z.length ≤ x.length := by
  unfold xorBits at h
  split at h
  · cases h
  · cases h; simp

theorem concatBits_ok_length {x y z : Bits} (h : concatBits x y = .ok z) : z.length ≤ 10 := by
  unfold concatBits at h
  split at h
  · cases h
  · cases h; simpa using by omega

theorem substitute_ok_length {x y : Bits} {box : SBox} (h : substitute x box = .ok y) :
    y.length = 2 := by
  unfold substitute at h
  split at h
  · cases h; rfl
  · cases h

section WellFormed

variable {c : Config} (wf : c.WellFormed)

include wf

theorem generateSubkeys_ok_length {k : Bits} {ks : Bits × Bits}
    (h : generateSubkeys c.tables k = .ok ks) : ks.1.length = 8 ∧ ks.2.length = 8 := by
  by_cases hk : k.length = 10
  · cases (generateSubkeys_eq_subkeyOf wf hk).symm.trans h
    exact ⟨subkeyOf_length wf .., subkeyOf_length wf ..⟩
  · cases (generateSubkeys_error c.tables hk).symm.trans h

theorem roundFunction_ok_length {r k y : Bits} (h : roundFunction c.tables r k = .ok y) :
    y.length = 4 := by
  by_cases hr : r.length = 4
  · by_cases hk : k.length = 8
    · cases (roundFunction_eq_roundOf wf hr hk).symm.trans h
      exact roundOf_length wf ..
    · cases (roundFunction_error_subkey wf hr hk).symm.trans h
  · cases (roundFunction_error_half c.tables k hr).symm.trans h

theorem encrypt_ok_length {x k y : Bits} (h : encrypt c x k = .ok y) : y.length = 8 := by
  by_cases hlen : x.length ≠ 8 ∨ k.length ≠ 10
  · rw [encrypt, requireLengths_error _ hlen] at h
    cases h
  · cases (encrypt_eq_encryptOf wf (by omega) (by omega)).symm.trans h
    exact encryptOf_length wf ..

theorem decrypt_ok_length {x k y : Bits} (h : decrypt c x k = .ok y) : y.length = 8 := by
  by_cases hlen : x.length ≠ 8 ∨ k.length ≠ 10
  · rw [decrypt, requireLengths_error _ hlen] at h
    cases h
  · cases (decrypt_eq_decryptOf wf (by omega) (by omega)).symm.trans h
    exact decryptOf_length wf ..

end WellFormed

/-! ### The results a command commits (R23, R84) -/

/-- The writes name the registers `ds`, and under R33 each is a vector that a register can hold. -/
structure Writes (s : State) (ds : List VIdx) (ws : List (VIdx × Bits)) : Prop where
  dests : ws.map Prod.fst = ds
  short : s.cfg.WellFormed → ∀ p ∈ ws, p.2.length ≤ 10

/-- Where the computation succeeds, its writes are such ones. -/
def Yields (s : State) (ds : List VIdx) (r : Except Error (List (VIdx × Bits))) : Prop :=
  ∀ ws, r = .ok ws → Writes s ds ws

section Yields

variable {α : Type} {s : State} {ds : List VIdx} {d d2 : VIdx}

theorem Yields.bind {r : Except Error α} {f : α → Except Error (List (VIdx × Bits))}
    (h : ∀ a, r = .ok a → Yields s ds (f a)) : Yields s ds (r >>= f) := by
  cases r with
  | ok a => exact h a rfl
  | error e => exact nofun

theorem Yields.one {r : Except Error Bits}
    (h : ∀ y, r = .ok y → s.cfg.WellFormed → y.length ≤ 10) :
    Yields s [d] (r >>= fun y => .ok [(d, y)]) :=
  .bind fun y hy ws hws => by
    cases hws
    exact ⟨rfl, fun wf => by simpa using h y hy wf⟩

theorem Yields.two {r : Except Error (Bits × Bits)}
    (h : ∀ y, r = .ok y → s.cfg.WellFormed → y.1.length ≤ 10 ∧ y.2.length ≤ 10) :
    Yields s [d, d2] (r >>= fun y => .ok [(d, y.1), (d2, y.2)]) :=
  .bind fun y hy ws hws => by
    cases hws
    exact ⟨rfl, fun wf => by simpa using h y hy wf⟩

/-- A `permute`, whatever its table: the result is as long as the table. -/
theorem Yields.permute {a : VIdx} {table : Except Error PermTable}
    (h : ∀ t, table = .ok t → s.cfg.WellFormed → t.length ≤ 10) :
    Yields s [d] (vec s a >>= fun x => table >>= fun t => permute x t >>= fun y => .ok [(d, y)]) :=
  .bind fun _ _ => .bind fun t ht => .one fun _ hy wf => (permute_ok_length hy).trans_le (h t ht wf)

end Yields

/-- The tables of R33 have at most 10 entries. -/
theorem tables_length {c : Config} (wf : c.WellFormed) : c.tables.ip.length ≤ 10 ∧
    c.tables.ipinv.length ≤ 10 ∧ c.tables.ep.length ≤ 10 ∧ c.tables.p4.length ≤ 10 ∧
    c.tables.p10.length ≤ 10 ∧ c.tables.p8.length ≤ 10 := by
  obtain ⟨⟨hip, -⟩, ⟨hinv, -⟩, ⟨hep, -⟩, ⟨h4, -⟩, ⟨h10, -⟩, ⟨h8, -⟩, -, -⟩ := wf
  omega

theorem exec_commit_yields (i : Instr) (s : State) :
    ∃ r, exec i s = commit s r ∧ Yields s (destsOf i) r := by
  cases i with
  | nop => exact ⟨.ok [], rfl, fun ws hws => by cases hws; exact ⟨rfl, fun _ => nofun⟩⟩
  | permuteIp d a | permuteIpinv d a | permuteEp d a | permuteP4 d a | permuteP10 d a | permuteP8 d a =>
    refine ⟨_, rfl, .permute fun t ht wf => ?_⟩
    cases ht
    have hlen := tables_length wf
    omega
  | permuteTbl d a => exact ⟨_, rfl, .permute fun t ht _ => userTable_ok_length ht⟩
  | xor d a b =>
    exact ⟨_, rfl, .bind fun x hx => .bind fun y _ => .one fun z hz _ =>
      (xorBits_ok_length hz).trans (vec_length hx)⟩
  | split d d2 a =>
    refine ⟨_, rfl, .bind fun _ _ => .bind fun x hx => .two fun h hh _ => ?_⟩
    have hlen := vec_length hx
    have hhalf := splitHalf_ok_length hh
    omega
  | rotl d a n =>
    exact ⟨_, rfl, .bind fun x hx => .one fun y hy _ => (rotateLeft_ok_length hy).trans_le (vec_length hx)⟩
  | concat d a b =>
    exact ⟨_, rfl, .bind fun x _ => .bind fun y _ => .one fun z hz _ => concatBits_ok_length hz⟩
  | sboxS0 d a | sboxS1 d a =>
    exact ⟨_, rfl, .bind fun x _ => .one fun y hy _ => (substitute_ok_length hy).trans_le (by decide)⟩
  | keygen d d2 a =>
    refine ⟨_, rfl, .bind fun _ _ => .bind fun k _ => .two fun ks hks wf => ?_⟩
    have hlen := generateSubkeys_ok_length wf hks
    omega
  | round d a b =>
    exact ⟨_, rfl, .bind fun r _ => .bind fun k _ => .one fun y hy wf =>
      (roundFunction_ok_length wf hy).trans_le (by decide)⟩
  | encrypt d a b =>
    exact ⟨_, rfl, .bind fun x _ => .bind fun k _ => .one fun y hy wf =>
      (encrypt_ok_length wf hy).trans_le (by decide)⟩
  | decrypt d a b =>
    exact ⟨_, rfl, .bind fun x _ => .bind fun k _ => .one fun y hy wf =>
      (decrypt_ok_length wf hy).trans_le (by decide)⟩

/-! ### The registers written, and the frame (R23, R177, R178) -/

/-- A destination holds the last vector written to it. -/
theorem State.writeAll_canonical {ws : List (VIdx × Bits)} (hlen : ∀ p ∈ ws, p.2.length ≤ 10)
    (s : State) {d : VIdx} (hd : d ∈ ws.map Prod.fst) : ((s.writeAll ws).vreg d).Canonical := by
  induction ws generalizing s with
  | nil => cases hd
  | cons w ws ih =>
    obtain ⟨hw, hws⟩ := List.forall_mem_cons.mp hlen
    by_cases hmem : d ∈ ws.map Prod.fst
    · exact ih hws _ hmem
    · obtain rfl : d = w.1 := (List.mem_cons.mp hd).resolve_right hmem
      rw [State.writeAll, State.writeAll_vreg_other ws _ hmem, State.setV_vreg_same]
      exact packBits_canonical hw

/-- Settles O21. -/
theorem commandsWriteCanonicalRegisters : Obligations.CommandsWriteCanonicalRegisters := by
  unfold Obligations.CommandsWriteCanonicalRegisters
  intro i s t wf h herr d hd
  obtain ⟨r, hr, hyields⟩ := exec_commit_yields i s
  obtain ⟨ws, hws, rfl⟩ | ⟨e, -, rfl⟩ := commit_cases (hr ▸ h)
  · obtain ⟨hdests, hshort⟩ := hyields ws hws
    exact State.writeAll_canonical (hshort wf) s (hdests ▸ hd)
  · exact absurd herr e.code_ne_zero

/-- Settles O22. -/
theorem commandsWriteOnlyTheirDestinations : Obligations.CommandsWriteOnlyTheirDestinations := by
  unfold Obligations.CommandsWriteOnlyTheirDestinations
  intro i s t h
  obtain ⟨r, hr, hyields⟩ := exec_commit_yields i s
  obtain ⟨ws, hws, rfl⟩ | ⟨e, -, rfl⟩ := commit_cases (hr ▸ h)
  · obtain ⟨hdests, -⟩ := hyields ws hws
    obtain ⟨h0, h1, hcmd, -, -, hcfg, hin, hrep⟩ := s.writeAll_same ws
    exact .of_registers (fun j hj => s.writeAll_vreg_other ws (hdests ▸ hj)) h0 h1 hcmd hcfg hin hrep
  · exact .of_registers (fun _ _ => rfl) rfl rfl rfl rfl rfl rfl

end Sys2Proof.Machine
end

section
/-!
PROOFS. The laws of the primitives (40_bit_vector.md R109), the tables a core is built of (10_state.md R33),
the literal half order (90_conflicts.md C1), and the platform (20_memory.md R51, R56).
-/

namespace Sys2Proof.Machine

open Sys2Proof.Reference

/-! ### The laws of the primitives (R109) -/

theorem permute_identity (x : Bits) : permute x ((List.range x.length).map (· + 1)) = .ok x := by
  rw [permute_ok (by simp)]
  refine congrArg _ (List.ext_getElem (by simp) fun i _ hi => ?_)
  simp [List.getD, hi]

/-- Rotations add up modulo the length, as those of the library do. -/
theorem rotateLeft_rotateLeft {x : Bits} {a b : Nat} (ha : a ≤ x.length) (hb : b ≤ x.length)
    (hpos : 0 < x.length) :
    (rotateLeft x a >>= fun y => rotateLeft y b) = rotateLeft x ((a + b) % x.length) := by
  have hb' : b ≤ (x.rotate a).length := by rwa [List.length_rotate]
  rw [rotateLeft_eq_rotate ha, rotateLeft_eq_rotate (Nat.mod_lt _ hpos).le, List.rotate_mod,
    ← List.rotate_rotate]
  exact rotateLeft_eq_rotate hb'

theorem xorBits_xorBits {a b : Bits} (h : a.length = b.length) :
    (xorBits a b >>= fun y => xorBits y b) = .ok a := by
  have hlen : (List.zipWith Bool.xor a b).length = b.length := by simp [h]
  rw [xorBits_ok h]
  exact (xorBits_ok hlen).trans (congrArg _ (zipWith_xor_cancel h))

theorem splitHalf_append {x a b : Bits} (h : splitHalf x = .ok (a, b)) : a ++ b = x := by
  unfold splitHalf at h
  split at h
  · cases h
  · cases h; exact List.take_append_drop ..

/-- Settles O51. -/
theorem bitVectorLaws : Obligations.BitVectorLaws :=
  ⟨permute_identity, fun _ _ _ => rotateLeft_rotateLeft, fun _ _ => xorBits_xorBits,
    fun _ _ _ => splitHalf_append⟩

/-! ### The tables a core is built of (R33) -/

/-- The vector of length `n` whose only 1 stands at index `i`. -/
def unitVector (n i : Nat) : Bits := (List.range n).map fun j => decide (j = i)

theorem unitVector_length (n i : Nat) : (unitVector n i).length = n := by simp [unitVector]

theorem elem_unitVector {n i p : Nat} (h : elem (unitVector n i) p = true) : p - 1 = i := by
  unfold elem unitVector at h
  by_cases hp : p - 1 < n
  · simpa [List.getD, hp] using h
  · simp [List.getD, hp] at h

theorem getD_mem {t : PermTable} {i : Nat} (h : i < t.length) : t.getD i 0 ∈ t :=
  List.getD_eq_getElem t 0 h ▸ List.getElem_mem h

/-- Tables that restore every vector are inverse position by position: the unit vectors show each one. -/
theorem undoes_of_rearranged {t u : PermTable} {n : Nat} (ht : t.Shape n n) (hu : u.Shape n n)
    (h : ∀ x : Bits, x.length = n → rearranged (rearranged x u) t = x) : t.Undoes u n := by
  obtain ⟨htl, hte⟩ := ht
  obtain ⟨hul, hue⟩ := hu
  intro i hi
  have hin : i < n := List.mem_range.mp hi
  have hti : t.getD i 0 - 1 < u.length := by
    have hentry := hte (t.getD i 0) (getD_mem (by omega))
    omega
  have hone : elem (unitVector n i) (u.getD (t.getD i 0 - 1) 0) = true := by
    rw [← elem_rearranged _ hti]
    calc elem (rearranged (unitVector n i) u) (t.getD i 0)
        = elem (rearranged (rearranged (unitVector n i) u) t) (i + 1) :=
          (elem_rearranged _ (j := i + 1) (by omega)).symm
      _ = true := by
          rw [h _ (unitVector_length n i)]
          simp [elem, unitVector, List.getD, hin]
  have hpos := hue (u.getD (t.getD i 0 - 1) 0) (getD_mem hti)
  have := elem_unitVector hone
  omega

/-- The composition of two tables of one shape, on a vector of their length. -/
theorem permute_permute {t u : PermTable} {n : Nat} (ht : t.Shape n n) (hu : u.Shape n n) {x : Bits}
    (hx : x.length = n) :
    (permute x u >>= fun y => permute y t) = .ok (rearranged (rearranged x u) t) := by
  have hlen : (rearranged x u).length = n := (List.length_map _).trans hu.1
  rw [permute_eq_rearranged hu hx.ge]
  exact permute_eq_rearranged ht hlen.ge

theorem undoes_iff_permute_permute {t u : PermTable} {n : Nat} (ht : t.Shape n n) (hu : u.Shape n n) :
    t.Undoes u n ↔ ∀ x : Bits, x.length = n → (permute x u >>= fun y => permute y t) = .ok x := by
  constructor
  · intro h x hx
    rw [permute_permute ht hu hx, rearranged_rearranged_of_undoes ht hu.1 h hx]
  · intro h
    refine undoes_of_rearranged ht hu fun x hx => ?_
    exact Except.ok.inj ((permute_permute ht hu hx).symm.trans (h x hx))

/-- Settles O50: the conditions on the entries of IP and IP⁻¹ are those on the vectors. -/
theorem onlyWellFormedTablesAreAccepted : Obligations.OnlyWellFormedTablesAreAccepted := by
  unfold Obligations.OnlyWellFormedTablesAreAccepted
  intro c t Meets
  have hiff : Meets ↔ c.WellFormed := by
    simp only [Meets, t, Config.WellFormed, Tables.WellFormed]
    constructor
    · rintro ⟨hip, hinv, hep, h4, h10, h8, h⟩
      exact ⟨hip, hinv, hep, h4, h10, h8,
        (undoes_iff_permute_permute hinv hip).mpr fun x hx => (h x hx).1,
        (undoes_iff_permute_permute hip hinv).mpr fun x hx => (h x hx).2⟩
    · rintro ⟨hip, hinv, hep, h4, h10, h8, hundo, hundo'⟩
      exact ⟨hip, hinv, hep, h4, h10, h8, fun x hx =>
        ⟨(undoes_iff_permute_permute hinv hip).mp hundo x hx,
          (undoes_iff_permute_permute hip hinv).mp hundo' x hx⟩⟩
  rw [hiff]
  exact ⟨fun wf => ⟨wf, if_pos wf⟩, fun wf => ⟨wf, if_neg wf⟩⟩

/-! ### The literal half order (C1) -/

/-- Settles O46: row EN1. -/
theorem literalOrderIsNoInverse : Obligations.LiteralOrderIsNoInverse := by
  unfold Obligations.LiteralOrderIsNoInverse
  refine ⟨bitsOf 8 0b10010111, bitsOf 10 0b1010000010, _, _, rfl, rfl, rfl, rfl, by decide⟩

/-! ### The platform (R51, R56) -/

theorem offsetOf_of_mem {base addr : Nat} (h : base ≤ addr) (h' : addr < base + 64) :
    ∃ off, offsetOf base addr = some off ∧ off.toNat = addr - base :=
  ⟨_, if_pos ⟨h, h'⟩, by rw [BitVec.toNat_ofNat]; omega⟩

theorem offsetOf_of_not_mem {base addr : Nat} (h : addr < base ∨ base + 64 ≤ addr) :
    offsetOf base addr = none := if_neg (by omega)

/-- Lane `k` of the bus word carries the host byte that the byte order gives it: the bytes below it are
skipped, and the ones above it cut off. -/
theorem extractLsb'_wordOfBytes (lanes : Vector (Fin 4) 4) (b : Vector (BitVec 8) 4) (k : Fin 4) :
    (wordOfBytes lanes b).extractLsb' (8 * k.val) 8 = b[lanes[k]] := by
  unfold wordOfBytes
  match k with
  | 0 => exact BitVec.extractLsb'_append_eq_right
  | 1 => exact (BitVec.extractLsb'_append_eq_of_le (by decide)).trans BitVec.extractLsb'_append_eq_right
  | 2 =>
    exact (BitVec.extractLsb'_append_eq_of_le (by decide)).trans
      ((BitVec.extractLsb'_append_eq_of_le (by decide)).trans BitVec.extractLsb'_append_eq_right)
  | 3 =>
    exact (BitVec.extractLsb'_append_eq_of_le (by decide)).trans
      ((BitVec.extractLsb'_append_eq_of_le (by decide)).trans BitVec.extractLsb'_append_eq_left)

/-- The lanes are distinct, so there is one for every host byte. -/
theorem exists_lane {lanes : Vector (Fin 4) 4} (h : lanes.toList.Nodup) (j : Fin 4) :
    ∃ k : Fin 4, lanes[k] = j := by
  have hinj : Function.Injective fun k : Fin 4 => lanes[k] := fun k k' hk =>
    Fin.ext ((h.getElem_inj_iff (hi := by simp) (hj := by simp)).mp (by simpa using hk))
  exact Finite.surjective_of_injective hinj j

theorem hostByte_wordOfBytes {lanes : Vector (Fin 4) 4} (h : lanes.toList.Nodup)
    (b : Vector (BitVec 8) 4) (j : Fin 4) : hostByte lanes (wordOfBytes lanes b) j = b[j] := by
  unfold hostByte
  split
  next k hk =>
    have hlane : lanes[k] = j := by simpa using List.find?_some hk
    subst hlane
    exact extractLsb'_wordOfBytes lanes b k
  next hnone =>
    obtain ⟨k, hk⟩ := exists_lane h j
    have := List.find?_eq_none.mp hnone k (List.mem_finRange k)
    simp [hk] at this

/-- Settles O57. -/
theorem platformMapsAddressesAndBytes : Obligations.PlatformMapsAddressesAndBytes :=
  ⟨fun _ _ => ⟨offsetOf_of_mem, offsetOf_of_not_mem⟩, fun _ b h => hostByte_wordOfBytes h b⟩

end Sys2Proof.Machine
end

section
/-!
PROOFS. Commands one after another (95_test_vectors.md programs 1 to 3; 30_encoding.md R91): the state that
each successful command leaves, and the programs composed from primitives.
-/

namespace Sys2Proof.Machine

open Sys2Proof.Reference

/-! ### The state after a success with one destination (R178) -/

/-- The state that a command leaves that succeeds and writes `y` to `d`; a second destination is a second
such write. -/
def State.result (s : State) (d : VIdx) (y : Bits) : State := (s.setV d y).recordSuccess

section Result

variable (s : State) (d : VIdx) (y : Bits)

@[simp] theorem State.result_cfg : (s.result d y).cfg = s.cfg := rfl
@[simp] theorem State.result_err : (s.result d y).err = 0 := rfl
@[simp] theorem State.result_fault : (s.result d y).fault = s.fault := rfl
@[simp] theorem State.result_replies : (s.result d y).replies = s.replies := rfl

@[simp] theorem State.result_vreg (j : VIdx) :
    (s.result d y).vreg j = if j = d then packBits y else s.vreg j := by
  by_cases h : j = d
  · subst h
    simp [State.result]
  · simp [State.result, h, State.setV_vreg_other s y h]

/-- The later of two writes to one register is the one that lasts. -/
theorem State.result_result_same (z : Bits) : (s.result d y).result d z = s.result d z := by
  simp [State.result, State.recordSuccess, State.setErr, State.setV, State.setVReg]

variable {y}

@[simp] theorem vec_result (hy : y.length ≤ 10) (j : VIdx) :
    vec (s.result d y) j = if j = d then .ok y else vec s j := by
  by_cases h : j = d
  · subst h
    rw [if_pos rfl]
    exact vec_setV_same s j y hy
  · rw [if_neg h]
    exact vec_congr (by simp [h])

end Result

theorem succeeds_of_result {i : Instr} {s : State} {d : VIdx} {y : Bits}
    (h : exec i s = .next (s.result d y)) (hlen : y.length ≤ 10) : Succeeds i s [(d, y)] :=
  succeeds_of_commit_single (r := .ok [(d, y)]) h rfl hlen

/-! ### What each command leaves when it succeeds -/

section Commands

variable {s : State} {d d2 a b : VIdx} {x y : Bits}

theorem permuteWith_result {t : PermTable} {m n : Nat} (hx : vec s a = .ok x) (ht : t.Shape m n)
    (hn : n ≤ x.length) : permuteWith d a (.ok t) s = .next (s.result d (rearranged x t)) := by
  have hres : (vec s a >>= fun x => (.ok t : Except Error PermTable) >>= fun t => permute x t >>= fun y =>
      .ok [(d, y)]) = .ok [(d, rearranged x t)] := by
    rw [source_ok hx]
    simp only [permute_eq_rearranged ht hn, bind, Except.bind]
  exact congrArg (commit s) hres

theorem exec_rotl_result {n : Fin 16} (hx : vec s a = .ok x) (hn : n.val ≤ x.length) :
    exec (.rotl d a n) s = .next (s.result d (x.rotate n)) := by
  have hexec : exec (.rotl d a n) s =
      commit s (vec s a >>= fun x => (rotateLeft x n).map fun y => [(d, y)]) := rfl
  rw [hexec, source_ok hx, rotateLeft_eq_rotate hn]
  rfl

theorem exec_split_result (hne : d ≠ d2) (hx : vec s a = .ok (x ++ y)) (hlen : x.length = y.length) :
    exec (.split d d2 a) s = .next ((s.result d x).result d2 y) := by
  have hhalf : splitHalf (x ++ y) = .ok (x, y) := by
    have hmid : (x ++ y).length / 2 = x.length := by rw [List.length_append]; omega
    rw [splitHalf_ok (by rw [List.length_append]; omega), hmid, List.take_left, List.drop_left]
  have hexec : exec (.split d d2 a) s =
      commit s (vec s a >>= fun x => (splitHalf x).map fun h => [(d, h.1), (d2, h.2)]) := by
    rw [exec, execSplit, distinctDests_ok hne]
    rfl
  rw [hexec, source_ok hx, hhalf]
  rfl

theorem exec_xor_result (hx : vec s a = .ok x) (hy : vec s b = .ok y) (hlen : x.length = y.length) :
    exec (.xor d a b) s = .next (s.result d (List.zipWith Bool.xor x y)) := by
  have hexec : exec (.xor d a b) s = commit s (vec s a >>= fun x => vec s b >>= fun y =>
      (xorBits x y).map fun z => [(d, z)]) := rfl
  rw [hexec, sources_ok hx hy, xorBits_ok hlen]
  rfl

theorem exec_concat_result (hx : vec s a = .ok x) (hy : vec s b = .ok y)
    (hlen : x.length + y.length ≤ 10) : exec (.concat d a b) s = .next (s.result d (x ++ y)) := by
  have hexec : exec (.concat d a b) s = commit s (vec s a >>= fun x => vec s b >>= fun y =>
      (concatBits x y).map fun z => [(d, z)]) := rfl
  rw [hexec, sources_ok hx hy, concatBits_ok hlen]
  rfl

section WellFormed

variable {c : Config} (wf : c.WellFormed) (hc : s.cfg = c)

include wf hc

theorem exec_keygen_result (hne : d ≠ d2) (hx : vec s a = .ok x) (hlen : x.length = 10) :
    exec (.keygen d d2 a) s =
      .next ((s.result d (subkeyOf c.tables 1 x)).result d2 (subkeyOf c.tables 3 x)) := by
  subst hc
  have hexec : exec (.keygen d d2 a) s = commit s (vec s a >>= fun k =>
      (generateSubkeys s.cfg.tables k).map fun ks => [(d, ks.1), (d2, ks.2)]) := by
    rw [exec, execKeygen, distinctDests_ok hne]
    rfl
  rw [hexec, source_ok hx, generateSubkeys_eq_subkeyOf wf hlen]
  rfl

theorem exec_round_result (hx : vec s a = .ok x) (hy : vec s b = .ok y) (hr : x.length = 4)
    (hk : y.length = 8) : exec (.round d a b) s = .next (s.result d (roundOf c.tables x y)) := by
  subst hc
  have hexec : exec (.round d a b) s = commit s (vec s a >>= fun r => vec s b >>= fun k =>
      (roundFunction s.cfg.tables r k).map fun z => [(d, z)]) := rfl
  rw [hexec, sources_ok hx hy, roundFunction_eq_roundOf wf hr hk]
  rfl

theorem exec_encrypt_result (hx : vec s a = .ok x) (hy : vec s b = .ok y) (hp : x.length = 8)
    (hk : y.length = 10) : exec (.encrypt d a b) s = .next (s.result d (encryptOf c x y)) := by
  subst hc
  have hexec : exec (.encrypt d a b) s = commit s (vec s a >>= fun p => vec s b >>= fun k =>
      (encrypt s.cfg p k).map fun z => [(d, z)]) := rfl
  rw [hexec, sources_ok hx hy, encrypt_eq_encryptOf wf hp hk]
  rfl

theorem exec_decrypt_result (hx : vec s a = .ok x) (hy : vec s b = .ok y) (hp : x.length = 8)
    (hk : y.length = 10) : exec (.decrypt d a b) s = .next (s.result d (decryptOf c x y)) := by
  subst hc
  have hexec : exec (.decrypt d a b) s = commit s (vec s a >>= fun p => vec s b >>= fun k =>
      (decrypt s.cfg p k).map fun z => [(d, z)]) := rfl
  rw [hexec, sources_ok hx hy, decrypt_eq_decryptOf wf hp hk]
  rfl

end WellFormed

end Commands

/-! ### The pseudo-instructions (R91) -/

theorem zipWith_xor_self (x : Bits) : List.zipWith Bool.xor x x = List.replicate x.length false :=
  List.ext_getElem (by simp) fun i _ _ => by simp

/-- Settles O32. -/
theorem pseudoInstructionsDoWhatTheyName : Obligations.PseudoInstructionsDoWhatTheyName := by
  unfold Obligations.PseudoInstructionsDoWhatTheyName
  intro s d a x hx
  have hlen := vec_length hx
  refine ⟨⟨_, rfl, ?_⟩, ⟨_, rfl, ?_⟩, fun heven => ?_, rfl, rfl⟩
  · have hrot := exec_rotl_result (d := d) (n := 0) hx (Nat.zero_le _)
    rw [Fin.val_zero, List.rotate_zero] at hrot
    exact succeeds_of_result hrot hlen
  · have hxor := exec_xor_result (d := d) hx hx rfl
    rw [zipWith_xor_self] at hxor
    exact succeeds_of_result hxor (by simpa using hlen)
  · have hamount : x.length / 2 < 16 := by omega
    have hrot := exec_rotl_result (d := d) (n := ⟨x.length / 2, hamount⟩) hx (Nat.div_le_self ..)
    rw [List.rotate_eq_drop_append_take (Nat.div_le_self ..)] at hrot
    refine ⟨_, by rw [Pseudo.expand, dif_pos hamount, if_pos heven], succeeds_of_result hrot ?_⟩
    simp
    omega

/-! ### Program 1: encrypt, then decrypt -/

/-- Settles O45: the first command leaves the key in its register, so the second finds both its sources. -/
theorem encryptThenDecryptCommandsRestoreTheBlock :
    Obligations.EncryptThenDecryptCommandsRestoreTheBlock := by
  unfold Obligations.EncryptThenDecryptCommandsRestoreTheBlock
  intro s d d2 p k x key wf horder hp hx hk hkey hne
  have hy := encryptOf_length wf x key
  have hblock : decryptOf s.cfg (encryptOf s.cfg x key) key = x :=
    Except.ok.inj ((decrypt_eq_decryptOf wf hy hkey).symm.trans (decrypt_encryptOf wf horder hx hkey))
  have hfirst := exec_encrypt_result (d := d) wf rfl hp hk hx hkey
  have hsecond := exec_decrypt_result (s := s.result d (encryptOf s.cfg x key)) (a := d) (b := k)
    (x := encryptOf s.cfg x key) (y := key) (d := d2) wf rfl (by simp [hy]) (by simp [hy, hne.symm, hk]) hy hkey
  refine ⟨_, _, hfirst, hsecond, ?_, rfl, rfl⟩
  rw [hblock]
  simp [hx]

/-! ### Program 2: the key schedule -/

/-- A command that answers `t`, before a sequence that brings `t` to a state with a property. -/
theorem execAll_cons {i : Instr} {rest : List Instr} {s t : State} {P : State → Prop}
    (h : exec i s = .next t) (hrest : ∃ u, execAll rest t = .next u ∧ P u) :
    ∃ u, execAll (i :: rest) s = .next u ∧ P u := by
  rw [execAll, h]
  exact hrest

/-- P8 on the concatenated halves takes the subkey of their rotation (R130). -/
theorem exec_permuteP8_result {s : State} {d a : VIdx} {t : Tables} (wf : t.WellFormed)
    (ht : s.cfg.tables = t) {k l r : Bits} {n : Nat} (hl : l.length = 5) (hr : r.length = 5)
    (hlr : l ++ r = rearranged k t.p10) (hx : vec s a = .ok (l.rotate n ++ r.rotate n)) :
    exec (.permuteP8 d a) s = .next (s.result d (subkeyOf t n k)) := by
  subst ht
  obtain ⟨-, -, -, -, -, h8, -, -⟩ := id wf
  rw [← rearranged_rotated_halves wf hl hr hlr]
  exact permuteWith_result hx h8 (by simp [hl, hr])

theorem execAll_keyScheduleProgram {s : State} {k : Bits} (wf : s.cfg.WellFormed) (hk : vec s 0 = .ok k)
    (hlen : k.length = 10) : ∃ t, execAll keyScheduleProgram s = .next t ∧
      t.vreg 4 = packBits (subkeyOf s.cfg.tables 1 k) ∧ t.vreg 5 = packBits (subkeyOf s.cfg.tables 3 k) ∧
      vec t 0 = .ok k ∧ t.cfg = s.cfg ∧ t.fault = s.fault := by
  obtain ⟨-, -, -, -, h10, -, -, -⟩ := id wf
  obtain ⟨l, r, -, hlr, hl, hr⟩ :=
    splitHalf_ten (x := rearranged k s.cfg.tables.p10) ((List.length_map _).trans h10.1)
  have hlen1 := subkeyOf_length wf 1 k
  have hlen3 := subkeyOf_length wf 3 k
  have hp10 : exec (.permuteP10 1 0) s = .next (s.result 1 (l ++ r)) :=
    hlr ▸ permuteWith_result hk h10 hlen.ge
  refine execAll_cons hp10 ?_
  refine execAll_cons (exec_split_result (x := l) (y := r) (by decide) (by simp [hl, hr])
    (hl.trans hr.symm)) ?_
  refine execAll_cons (exec_rotl_result (x := l) (by simp [hl, hr]) (by simp [hl])) ?_
  refine execAll_cons (exec_rotl_result (x := r) (by simp [hl, hr]) (by simp [hr])) ?_
  refine execAll_cons (exec_concat_result (x := l.rotate 1) (y := r.rotate 1) (by simp [hl, hr])
    (by simp [hr]) (by simp [hl, hr])) ?_
  refine execAll_cons (exec_permuteP8_result wf (by simp) hl hr hlr (n := 1) (by simp [hl, hr])) ?_
  refine execAll_cons (exec_rotl_result (x := l.rotate 1) (by simp [hl, hr, hlen1]) (by simp [hl])) ?_
  refine execAll_cons (exec_rotl_result (x := r.rotate 1) (by simp [hl, hr, hlen1]) (by simp [hr])) ?_
  refine execAll_cons (exec_concat_result (x := l.rotate 3) (y := r.rotate 3) (by simp [hl, hr])
    (by simp [hr]) (by simp [hl, hr])) ?_
  refine execAll_cons (exec_permuteP8_result wf (by simp) hl hr hlr (n := 3) (by simp [hl, hr])) ?_
  exact ⟨_, rfl, by simp [hl, hr, hlen1, hlen3, hk]⟩

/-- Settles O47: `keygen` takes the subkeys of the same two rotations. -/
theorem keyScheduleFromPrimitives : Obligations.KeyScheduleFromPrimitives := by
  unfold Obligations.KeyScheduleFromPrimitives
  intro s k wf hk hlen
  obtain ⟨t, ht, h4, h5, hk', hcfg, hfault⟩ := execAll_keyScheduleProgram wf hk hlen
  refine ⟨t, _, ht, exec_keygen_result wf hcfg (by decide) hk' hlen, ?_⟩
  simp [h4, h5, hfault]

/-! ### Program 3: encryption -/

/-- A Feistel round from primitives (R150): the round function of the right half, mixed into the left. -/
theorem execAll_round_xor {c : Config} (wf : c.WellFormed) {s : State} (hc : s.cfg = c)
    {d l r k : VIdx} {L R K : Bits} (hL : vec s l = .ok L) (hR : vec s r = .ok R) (hK : vec s k = .ok K)
    (hLlen : L.length = 4) (hRlen : R.length = 4) (hKlen : K.length = 8) (hne : l ≠ d)
    {rest : List Instr} {P : State → Prop}
    (hrest : ∃ u, execAll rest (s.result d (List.zipWith Bool.xor L (roundOf c.tables R K))) = .next u ∧
      P u) : ∃ u, execAll (.round d r k :: .xor d l d :: rest) s = .next u ∧ P u := by
  have hround := roundOf_length wf R K
  refine execAll_cons (exec_round_result wf hc hR hK hRlen hKlen) ?_
  refine execAll_cons (exec_xor_result (x := L) (y := roundOf c.tables R K) (by simp [hround, hne, hL])
    (by simp [hround]) (hLlen.trans hround.symm)) ?_
  rwa [State.result_result_same]

theorem execAll_encryptProgram {s : State} {p k : Bits} (wf : s.cfg.WellFormed)
    (horder : s.cfg.finalHalfOrder = .r2l2) (hp : vec s 0 = .ok p) (hplen : p.length = 8)
    (hk : vec s 1 = .ok k) (hklen : k.length = 10) : ∃ t, execAll encryptProgram s = .next t ∧
      t.vreg 2 = packBits (encryptOf s.cfg p k) ∧ vec t 0 = .ok p ∧ vec t 1 = .ok k ∧
      t.cfg = s.cfg ∧ t.fault = s.fault := by
  obtain ⟨hip, hinv, -⟩ := id wf
  obtain ⟨l0, r0, hlr, hl0, hr0⟩ := rearranged_ip_halves wf p
  obtain ⟨r1, h1⟩ : ∃ r1, List.zipWith Bool.xor l0
      (roundOf s.cfg.tables r0 (subkeyOf s.cfg.tables 1 k)) = r1 := ⟨_, rfl⟩
  obtain ⟨r2, h2⟩ : ∃ r2, List.zipWith Bool.xor r0
      (roundOf s.cfg.tables r1 (subkeyOf s.cfg.tables 3 k)) = r2 := ⟨_, rfl⟩
  have hr1 : r1.length = 4 := h1 ▸ zipWith_xor_roundOf_length wf hl0 r0 _
  have hr2 : r2.length = 4 := h2 ▸ zipWith_xor_roundOf_length wf hr0 r1 _
  have hsub := subkeyOf_length wf
  have henc : encryptOf s.cfg p k = rearranged (r2 ++ r1) s.cfg.tables.ipinv := by
    rw [encryptOf, feistelOf_eq_joinHalves _ hlr hl0 h1 h2, horder]
    rfl
  refine execAll_cons (exec_keygen_result wf rfl (by decide) hk hklen) ?_
  refine execAll_cons (permuteWith_result (x := p) (t := s.cfg.tables.ip) (by simp [hsub, hp]) hip
    hplen.ge) ?_
  rw [hlr]
  refine execAll_cons (exec_split_result (x := l0) (y := r0) (by decide) (by simp [hl0, hr0])
    (hl0.trans hr0.symm)) ?_
  refine execAll_round_xor wf (by simp) (L := l0) (R := r0) (K := subkeyOf s.cfg.tables 1 k)
    (by simp [hl0, hr0]) (by simp [hr0]) (by simp [hl0, hr0, hsub]) hl0 hr0 (hsub 1 k) (by decide) ?_
  rw [h1]
  refine execAll_round_xor wf (by simp) (L := r0) (R := r1) (K := subkeyOf s.cfg.tables 3 k)
    (by simp [hr0, hr1]) (by simp [hr1]) (by simp [hl0, hr0, hr1, hsub]) hr0 hr1 (hsub 3 k) (by decide) ?_
  rw [h2]
  refine execAll_cons (exec_concat_result (x := r2) (y := r1) (by simp [hr2]) (by simp [hr1, hr2])
    (by omega)) ?_
  refine execAll_cons (permuteWith_result (x := r2 ++ r1) (t := s.cfg.tables.ipinv) (by simp [hr1, hr2])
    hinv (by simp [hr1, hr2])) ?_
  rw [← henc]
  exact ⟨_, rfl, by simp [encryptOf_length wf, hl0, hr0, hr1, hr2, hsub, hp, hk]⟩

/-- Settles O48. -/
theorem encryptionFromPrimitives : Obligations.EncryptionFromPrimitives := by
  unfold Obligations.EncryptionFromPrimitives
  intro s p k wf horder hp hplen hk hklen
  obtain ⟨t, ht, h2, hp', hk', hcfg, hfault⟩ := execAll_encryptProgram wf horder hp hplen hk hklen
  refine ⟨t, _, ht, exec_encrypt_result wf hcfg hp' hk' hplen hklen, ?_⟩
  simp [h2, hfault]

end Sys2Proof.Machine
end

section
/-!
PROOFS. The key search as a loop of bus accesses (95_test_vectors.md program 5; 20_memory.md R71 to R73): what
one pass of the loop reads, and the loop against the search function.
-/

namespace Sys2Proof.Machine

open Sys2Proof.Reference

/-! ### The events of a pass (R91, R93) -/

section Vec

variable (s : State) (j : VIdx)

@[simp] theorem vec_pushReply (r : Reply) : vec (s.pushReply r) j = vec s j := rfl
@[simp] theorem vec_setCmdreg (w : Word) : vec (s.setCmdreg w) j = vec s j := rfl

@[simp] theorem vec_setV {x : Bits} (hx : x.length ≤ 10) (i : VIdx) :
    vec (s.setV i x) j = if j = i then .ok x else vec s j := vec_result s i hx j

end Vec

@[simp] theorem State.setV_cfg (s : State) (i : VIdx) (x : Bits) : (s.setV i x).cfg = s.cfg := rfl
@[simp] theorem State.setV_replies (s : State) (i : VIdx) (x : Bits) :
    (s.setV i x).replies = s.replies := rfl

/-- An event that leaves `t`, before events that bring `t` to a state with a property. -/
theorem serveAll_cons {e : BusEvent} {rest : List BusEvent} {s t : State} {P : State → Prop}
    (h : serveEvent e s = .next t) (hrest : ∃ u, serveAll rest t = .next u ∧ P u) :
    ∃ u, serveAll (e :: rest) s = .next u ∧ P u := by
  rw [serveAll, h]
  exact hrest

theorem serveEvent_command {i : Instr} (hwf : i.wf = true) {s t : State}
    (h : exec i (s.setCmdreg (encode i)) = .next t) :
    serveEvent (cmdWrite (encode i)) s = .next (t.pushReply ⟨false, none⟩) := by
  have hserve : serveEvent (cmdWrite (encode i)) s =
      acknowledge ⟨false, none⟩ (execute (encode i) (s.setCmdreg (encode i))) := rfl
  rw [hserve, execute_of_decode (decodeOfEncodeIsTheCommand i hwf), h]
  rfl

theorem serveEvent_readVReg (i : VIdx) (s : State) :
    serveEvent (hostRead (vregOffset i)) s = .next (s.pushReply ⟨false, some (s.vreg i).word⟩) := by
  have hoff := vregOffset_toNat i
  have hread := serve_read (off := vregOffset i) (by omega) s
  rwa [memRead, windowReg_of_vregOffset hoff] at hread

/-- The word read from a register that holds a vector is the word that loads it. -/
theorem word_packBits {x : Bits} (hx : x.length ≤ 10) : (packBits x).word = loadWord x :=
  BitVec.eq_of_toNat_eq <| by
    rw [VReg.word_toNat, packBits_len x hx, packBits_data x hx, loadWord_toNat hx]

theorem loadWord_inj {x y : Bits} (hx : x.length ≤ 10) (hy : y.length ≤ 10) :
    loadWord x = loadWord y ↔ x = y := by
  refine ⟨fun h => ?_, congrArg loadWord⟩
  rw [← packBits_bits x hx, ← packBits_bits y hy, ← VReg.ofWord_loadWord hx, ← VReg.ofWord_loadWord hy, h]

/-! ### One pass of the loop -/

/-- The pair under search stands in `v0` and `v4` of a core of configuration `c`. -/
structure Loaded (c : Config) (p x : Bits) (s : State) : Prop where
  cfg    : s.cfg = c
  plain  : vec s 0 = .ok p
  cipher : vec s 4 = .ok x

section Search

variable {c : Config} (wf : c.WellFormed) {p x : Bits} (hp : p.length = 8) (hx : x.length = 8)

include wf hp hx

/-- A pass reads back both results and keeps the pair. -/
theorem serveAll_trialEvents {s : State} (h : Loaded c p x s) (k : Nat) :
    ∃ t, serveAll (trialEvents k) s = .next t ∧ Loaded c p x t ∧
      newReads s t = [loadWord (encryptOf c p (candidate k)), loadWord (decryptOf c x (candidate k))] := by
  obtain ⟨hcfg, hplain, hcipher⟩ := h
  have hkey : (candidate k).length = 10 := bitsOf_length 10 k
  have henc := encryptOf_length wf p (candidate k)
  have hdec := decryptOf_length wf x (candidate k)
  unfold trialEvents
  refine serveAll_cons (serveEvent_ldEvent 1 hkey.le s) ?_
  refine serveAll_cons (serveEvent_command rfl (exec_encrypt_result wf (by simp [hcfg]) (x := p)
    (y := candidate k) (by simp [hkey, hplain]) (by simp [hkey]) hp hkey)) ?_
  refine serveAll_cons (serveEvent_command rfl (exec_decrypt_result wf (by simp [hcfg]) (x := x)
    (y := candidate k) (by simp [hkey, henc, hcipher]) (by simp [hkey, henc]) hx hkey)) ?_
  refine serveAll_cons (serveEvent_readVReg 2 _) ?_
  refine serveAll_cons (serveEvent_readVReg 3 _) ?_
  refine ⟨_, rfl, ⟨?_, ?_, ?_⟩, ?_⟩
  · simp [hcfg]
  · simp [hkey, henc, hdec, hplain]
  · simp [hkey, henc, hdec, hcipher]
  · simp [newReads, word_packBits, henc, hdec]

/-- The words read back are the pair's own exactly when the key passes both checks (R72). -/
theorem readBack_iff_isMatch (k : Nat) :
    [loadWord (encryptOf c p (candidate k)), loadWord (decryptOf c x (candidate k))] =
      [loadWord x, loadWord p] ↔ isMatch c p x k = true := by
  have hkey : (bitsOf 10 k).length = 10 := bitsOf_length 10 k
  have henc : (encryptOf c p (candidate k)).length ≤ 10 := (encryptOf_length wf ..).trans_le (by decide)
  have hdec : (decryptOf c x (candidate k)).length ≤ 10 := (decryptOf_length wf ..).trans_le (by decide)
  rw [isMatch_iff, encrypt_eq_encryptOf wf hp hkey, decrypt_eq_decryptOf wf hx hkey, List.cons.injEq,
    List.cons.injEq, loadWord_inj henc (by omega), loadWord_inj hdec (by omega), Except.ok.injEq,
    Except.ok.injEq, and_iff_left rfl]
  exact and_comm

theorem driverLoop_eq_find? (ks : List Nat) {s : State} (h : Loaded c p x s) :
    driverLoop p x ks s = ks.find? (isMatch c p x) := by
  induction ks generalizing s with
  | nil => rfl
  | cons k ks ih =>
    obtain ⟨t, ht, hloaded, hreads⟩ := serveAll_trialEvents wf hp hx h k
    simp only [driverLoop, ht, hreads, readBack_iff_isMatch wf hp hx, ih hloaded, List.find?_cons]
    cases isMatch c p x k <;> rfl

end Search

/-- Settles O54: loading the pair is two register writes, and each pass makes the same decision as the
search function. -/
theorem driverReportsTheSearchResult : Obligations.DriverReportsTheSearchResult := by
  unfold Obligations.DriverReportsTheSearchResult
  intro s p x wf hp hx
  obtain ⟨t, ht, hloaded⟩ : ∃ t, serveAll [ldEvent 0 p, ldEvent 4 x] s = .next t ∧
      Loaded s.cfg p x t := by
    refine serveAll_cons (serveEvent_ldEvent 0 (by omega) s) ?_
    refine serveAll_cons (serveEvent_ldEvent 4 (by omega) _) ?_
    exact ⟨_, rfl, by simp, by simp [hp, hx], by simp [hx]⟩
  rw [driver, ht]
  exact driverLoop_eq_find? wf hp hx keySpace hloaded

end Sys2Proof.Machine
end
